-- ==== Sys2Proof/Word.lean ====
section
/-! DEFINITION. The bit vectors of the sub432 decoder block: bytes (R63: the block moves bytes only) and the 48-bit
transaction word of the script notation (R102). -/

namespace Sys2Proof

/-- A byte, bits 7..0 (R8). -/
abbrev Byte := BitVec 8

/-- A transaction word (R102): `kind` in bits 47..44, `cpu` in 43..40, `addr` in 39..8, `data` in 7..0. -/
abbrev TxnWord := BitVec 48

/-- `v[i]` of R8: bit i of v, bit 0 the least significant. -/
def bitOf {n : Nat} (v : BitVec n) (i : Nat) : Bool := v.getLsbD i

/-- One bit as a number, 0 or 1. -/
def bitVal (b : Bool) : Nat := if b then 1 else 0

end Sys2Proof
end

