-- ==== Sys2Proof/Config.lean ====
section
/-! DEFINITION. The configuration of the block: the parameter record of R7, as plain data, and the free values.
The spec makes every address, bit position and layout a parameter (R7, R20, R69). A parameter that R7 gives as a
FUNCTION (a ROM image, `BANK_FN`, `GFX`, `PALETTE_DECODE`, ...) is held here as a `Formula`, an expression that
`Formula.eval` (Machine/Operands.lean) evaluates: every function on the finite domain the block uses is one, by a
`table` at the worst (log entry 2). What the spec calls a draw is an opaque constant applied to the draw counter
(log entry 5). -/

namespace Sys2Proof

/-- A configured function from natural numbers to a natural number, written as an expression over its arguments
and, where the function reads a buffer (`PALETTE_DECODE`), over the bytes of that buffer. -/
inductive Formula where
  /-- The i-th argument, counted from 0 (0 where there is none). -/
  | arg (i : Nat)
  | const (n : Nat)
  /-- The byte of the context's buffer at an offset. -/
  | byte (off : Formula)
  | add (a b : Formula)
  /-- Truncated subtraction. -/
  | sub (a b : Formula)
  | mul (a b : Formula)
  | div (a b : Formula)
  | mod (a b : Formula)
  | band (a b : Formula)
  | bor (a b : Formula)
  | bxor (a b : Formula)
  | shl (a b : Formula)
  | shr (a b : Formula)
  /-- The second where the first is not 0, else the third. -/
  | cond (c t e : Formula)
  /-- The entry of a table at an index, 0 past its end. -/
  | table (l : List Nat) (i : Formula)
deriving DecidableEq, Repr

/-- `CPU_KIND[c]` (R7): informational, no rule reads it. -/
inductive CpuKind where
  | m6809 | z80 | m68000 | h6280 | m68705 | other
deriving DecidableEq, Repr

/-- `BYTE_LANE_ORDER[c]` (R7, R64): the order of the byte transactions a wider access is split into. -/
inductive LaneOrder where
  | highFirst | lowFirst
deriving DecidableEq, Repr

/-- The kind of a backing buffer (R7). -/
inductive BufKind where
  | rom | ram
deriving DecidableEq, Repr

/-- The direction of a transaction or of a map list (R60). -/
inductive Dir where
  | read | write
deriving DecidableEq, Repr

/-- An interrupt class. `INT_TYPES` holds at least NMI, FIRQ, IRQ and IRQ1 (R7); a configuration may name more. -/
inductive IntType where
  | nmi | firq | irq | irq1
  | other (n : Nat)
deriving DecidableEq, Repr

/-- The mode of `INT.ASSERT` (R163). -/
inductive AssertMode where
  | pulse | level
deriving DecidableEq, Repr

/-- A port of a microcontroller link (R31). -/
inductive Port where
  | a | b
deriving DecidableEq, Repr

/-- The capability of a map entry with its arguments (R91). -/
inductive Cap where
  | ram (b o : Nat)
  | rom (b o : Nat)
  | banked (k : Nat)
  | banksel (k : Nat)
  | shared (r : Nat)
  | irqen (c line bit : Nat)
  | nmien (c : Nat)
  | irqclr (c : Nat) (t : IntType)
  | hsCmd (h : Nat)
  | hsRes (h : Nat)
  | hsStatus (h : Nat)
  | mcuData (m : Nat)
  | mcuStatus (m : Nat)
  | mcuPort (m : Nat) (p : Port)
  | mcuDdr (m : Nat) (p : Port)
  | sound (dev : Nat)
  | soundBusy (dev : Nat)
  | input (i0 : Nat)
  | vreg (l : Nat)
  | palette (b o : Nat)
  /-- An entry with a reserved tag: 0x00 or one of 0x15 to 0x3F (R91). It carries no arguments and fails check 1. -/
  | reserved (tag : Nat)
deriving DecidableEq, Repr

/-- A map entry `(start, end, cap, args)` covering `[start, stop]`, both ends included (R90). -/
structure Entry where
  start : Nat
  stop : Nat
  cap : Cap
deriving DecidableEq, Repr

/-- The parameters of one CPU (R7). -/
structure CpuCfg where
  kind : CpuKind
  /-- `ADDR_BITS[c]`. -/
  addrBits : Nat
  /-- `BYTE_LANE_ORDER[c]`. -/
  laneOrder : LaneOrder
  /-- `OPEN_BUS[c]`. -/
  openBus : Byte
  /-- `READ_MAP[c]`. -/
  readMap : List Entry
  /-- `WRITE_MAP[c]`. -/
  writeMap : List Entry
  /-- `QUERY_PERIOD[c]`. -/
  queryPeriod : Nat
  /-- `POLLED[c]`: pairs (line, type). -/
  polled : List (Nat × IntType)
  /-- `NMI_LATCH[c]`. -/
  nmiLatch : Bool
  /-- `NMIEN_BIT[c]`. -/
  nmienBit : Nat
deriving DecidableEq, Repr

/-- A backing buffer (R7). `image` gives byte i of a ROM buffer (`init`) and the power-on byte i of a RAM buffer
(`INIT_RAM`, a draw: log entry 3), its value taken mod 256. -/
structure BufferCfg where
  kind : BufKind
  size : Nat
  image : Formula
deriving DecidableEq, Repr

/-- A bank register's parameters `(k, region, bankBase, bankSize, mask)` (R7). -/
structure BankCfg where
  region : Nat
  bankBase : Nat
  bankSize : Nat
  mask : Nat
deriving DecidableEq, Repr

/-- One owner of a shared region: a CPU and a range (R25). -/
structure Owner where
  cpu : Nat
  start : Nat
  stop : Nat
deriving DecidableEq, Repr

/-- A shared-memory region `(r, buffer, owners)` (R7, R25). -/
structure SharedCfg where
  buffer : Nat
  owners : List Owner
deriving DecidableEq, Repr

/-- A pair (CPU, type) named by a `..._CLEAR` parameter. -/
structure LineRef where
  cpu : Nat
  type : IntType
deriving DecidableEq, Repr

/-- A triple (CPU, type, mode) named by an `..._ASSERT` parameter. -/
structure LineAssert where
  cpu : Nat
  type : IntType
  mode : AssertMode
deriving DecidableEq, Repr

/-- `CMD_EFFECT(h)` (R196). -/
inductive CmdEffect where
  | none
  | assert (a : LineAssert)
  | nmiTrigger (c : Nat)
deriving DecidableEq, Repr

/-- A latch handshake (R7, R196). -/
structure HandshakeCfg where
  primary : Nat
  secondary : Nat
  invertMask : Byte
  cmdEffect : CmdEffect
  cmdReadClear : Option LineRef
  syncDelivery : Bool
deriving DecidableEq, Repr

/-- The edge of a port B trigger (R206). -/
inductive Edge where
  | rising | falling
deriving DecidableEq, Repr

/-- The action of a port B trigger (R206). -/
inductive PortAction where
  | latchFromMain | sendToMain
deriving DecidableEq, Repr

/-- One entry of `PORTB_TRIGGERS(m)` (R206). -/
structure Trigger where
  bit : Nat
  edge : Edge
  action : PortAction
deriving DecidableEq, Repr

/-- A microcontroller link (R7). -/
structure LinkCfg where
  primary : Nat
  mcu : Nat
  triggers : List Trigger
  statusReadyBit : Nat
  statusResultBit : Nat
  statusInvert : Byte
  mainWriteAssert : Option LineAssert
  sendAssert : Option LineAssert
  latchClear : Option LineRef
  dataReadClear : Option LineRef
deriving DecidableEq, Repr

/-- A field of a layer's video register block (R230). -/
inductive VregField where
  | scrollxLo | scrollxHi | scrolly | bank | ctrl
deriving DecidableEq, Repr

/-- `VCTRL_IRQ[l]`: the interrupt-enable bit in a layer's control byte (R235). -/
structure VctrlIrq where
  cpu : Nat
  line : Nat
  bit : Nat
deriving DecidableEq, Repr

/-- The transparency mode of a layer (R251, R266). -/
inductive Transp where
  | opaqueAll
  | pen (t : Nat)
deriving DecidableEq, Repr

/-- A layer record (R251). -/
structure LayerCfg where
  tileRam : Nat
  cols : Nat
  rows : Nat
  tileW : Nat
  tileH : Nat
  /-- `CELL_ATTR_ADDR(l, cell)`, a formula of the cell. -/
  cellAttrAddr : Formula
  /-- `CELL_CODE_ADDR(l, cell)`, a formula of the cell. -/
  cellCodeAddr : Formula
  /-- `BANK_FN(l)(attr, vbank)`. -/
  bankFn : Formula
  /-- `COLOR_FN(l)(attr)`. -/
  colorFn : Formula
  /-- `TILE_FLIPX_FN(l)(attr)`, 0 or 1. -/
  flipxFn : Formula
  /-- `TILE_FLIPY_FN(l)(attr)`, 0 or 1. -/
  flipyFn : Formula
  numTiles : Nat
  gfxSet : Nat
  /-- `SCROLLX_BITS(l)`, 8 or 9. -/
  scrollxBits : Nat
  /-- `SCROLLX_HI_BIT(l)`. -/
  scrollxHiBit : Nat
  transp : Transp
  colorBase : Nat
  /-- `VREG_LAYOUT[l]`, a partial function from offsets to fields. -/
  vregLayout : List (Nat × VregField)
  vctrlIrq : Option VctrlIrq
deriving DecidableEq, Repr

/-- A bit field of a sprite entry: the byte within the entry, its lowest bit and its width (R260). -/
structure SpriteField where
  byte : Nat
  lo : Nat
  width : Nat
deriving DecidableEq, Repr

/-- `SPRITE_LAYOUT` (R98, R260). -/
structure SpriteLayout where
  y : SpriteField
  codeLo : SpriteField
  codeHi : Option SpriteField
  xByte : SpriteField
  xExt : Option SpriteField
  color : SpriteField
  flipX : SpriteField
  flipY : SpriteField
  size : SpriteField
  /-- `PRIO_FIELD`. -/
  prio : Option SpriteField
deriving DecidableEq, Repr

/-- `X_EXT_MODE` (R98). -/
inductive XExtMode where
  | ninthBit | sign
deriving DecidableEq, Repr

/-- The sprite record (R260). -/
structure SpriteCfg where
  sprRam : Nat
  sprBase : Nat
  count : Nat
  stride : Nat
  layout : SpriteLayout
  numSpriteTiles : Nat
  sprGfxSet : Nat
  /-- `OFFSCREEN_Y`, or none. -/
  offscreenY : Option Nat
  flipMaxX : Int
  flipMaxY : Int
  /-- `FLIP_CORR[size]`, (0, 0) where the list has no entry (the default of R260). -/
  flipCorr : List (Int × Int)
  /-- `SUBTILE_OFF[size][j][i]`, row-major where the lists have no entry (the default of R260). -/
  subtileOff : List (List (List Nat))
  sprColorBase : Nat
  sprTranspPen : Nat
  spriteOrder : List Nat
deriving DecidableEq, Repr

/-- The palette record (R7): `PALETTE_DECODE` gives the three parts of a colour from the index (argument 0) and the
bytes of the palette buffer (log entry 2). -/
structure PaletteCfg where
  buffer : Nat
  paletteSize : Nat
  pensPerColor : Nat
  decodeR : Formula
  decodeG : Formula
  decodeB : Formula
  bgPen : Nat
deriving DecidableEq, Repr

/-- An item of `DRAW_ORDER` (R269): a layer, or the sprites of one priority group (`none` is `ALL`). -/
inductive DrawItem where
  | layer (l : Nat)
  | sprites (p : Option Nat)
deriving DecidableEq, Repr

/-- The parameter record (R7). CPUs, buffers, banks, regions, handshakes, links, devices and layers are named by
their position (log entry 14). -/
structure Config where
  cpus : List CpuCfg
  buffers : List BufferCfg
  banks : List BankCfg
  shared : List SharedCfg
  /-- `SLICES`. -/
  slices : Nat
  intTypes : List IntType
  /-- `INT_PRIORITY`, the greatest first. -/
  intPriority : List IntType
  handshakes : List HandshakeCfg
  links : List LinkCfg
  /-- `SOUND_DEVICES`: the `BUSY_BIT` of each. -/
  sounds : List Nat
  layers : List LayerCfg
  flipSourceLayer : Nat
  flipscreenBit : Nat
  screenW : Nat
  screenH : Nat
  sprites : SpriteCfg
  xExtMode : XExtMode
  palette : PaletteCfg
  drawOrder : List DrawItem
  /-- `GFX(set, code, px, py)`. -/
  gfx : Formula
deriving DecidableEq, Repr

/-! ### Free values
Each is a draw of the spec (R9): a constant without a body, so that nothing can be proved of its value. The last
argument of a draw is the number of draws made before it (log entry 5). -/

/-- `draw SoundRead(s, off)` (R141): arguments device, offset, draw number. -/
opaque Config.drawSoundRead : Nat → Nat → Nat → Byte

/-- `draw SoundBusy(s)` (R142): arguments device, draw number. -/
opaque Config.drawSoundBusy : Nat → Nat → Bool

/-- `draw InputPort(i)` (R143): arguments port index, draw number. -/
opaque Config.drawInputPort : Nat → Nat → Byte

/-- `draw PORTB_IN(m)` (R205): arguments link, draw number. -/
opaque Config.drawPortBIn : Nat → Nat → Byte

/-- The palette index of pixel (x, y) of the frame buffer before the first drawing (R36, R330: any value). -/
opaque Config.freePixel : Nat → Nat → Nat

/-- What the compositor reads at an offset outside a buffer: only a configuration that fails the check of R300 can
ask (log entry 8). Arguments buffer, offset. -/
opaque Config.absentByte : Nat → Nat → Byte

end Sys2Proof
end

