-- ==== Sys2Proof/Syntax.lean ====
section
/-! DEFINITION. The operations of the block: one constructor per row of spec/opcode_table.json, in the table's order.
R3: every "instruction" is an operation of the block. The operands are those of the operation's rule as R120 passes
them: the presenting CPU (first), the arguments of the matched entry, the window offset `off = a - e.start`, the
written byte (last). -/

namespace Sys2Proof

/-- A decoded sprite (R261). -/
structure SpriteRec where
  code : Nat
  x : Int
  y : Nat
  color : Nat
  flipX : Bool
  flipY : Bool
  /-- The size class 0..3 (R263). -/
  size : Fin 4
  prio : Nat
deriving DecidableEq, Repr

/-- The operations of the block. -/
inductive Instr where
  /-- R122: CPU c reads address a, which has no read-map entry. -/
  | rdOpen (c a : Nat)
  /-- R123: CPU c writes address a, which has no write-map entry. -/
  | wrOpen (c a : Nat) (d : Byte)
  /-- R125: plain RAM, buffer b, buffer offset o, window offset off. -/
  | rdRam (c b o off : Nat)
  /-- R126. -/
  | wrRam (c b o off : Nat) (d : Byte)
  /-- R127. -/
  | rdRom (c b o off : Nat)
  /-- R129: bank k, window offset off. -/
  | rdBank (c k off : Nat)
  /-- R130. -/
  | wrBank (c k off : Nat) (d : Byte)
  /-- R131. -/
  | wrBanksel (c k : Nat) (d : Byte)
  /-- R133: shared region r. -/
  | rdShared (c r off : Nat)
  /-- R134. -/
  | wrShared (c r off : Nat) (d : Byte)
  /-- R161: writer w; target CPU c, line, `IRQEN_BIT[e]`. -/
  | wrIrqen (w c line bit : Nat) (d : Byte)
  /-- R162: writer w, target CPU c. -/
  | wrNmien (w c : Nat) (d : Byte)
  /-- R166: writer w; target CPU c and type. -/
  | wrIrqclr (w c : Nat) (t : IntType) (d : Byte)
  /-- R190: primary w, handshake h. -/
  | wrHsCmd (w h : Nat) (d : Byte)
  /-- R191: secondary c. -/
  | rdHsCmd (c h : Nat)
  /-- R192. -/
  | wrHsRes (c h : Nat) (d : Byte)
  /-- R193. -/
  | rdHsRes (w h : Nat)
  /-- R194. -/
  | rdHsStatus (c h : Nat)
  /-- R200: primary w, link m. -/
  | wrMcuData (w m : Nat) (d : Byte)
  /-- R201. -/
  | rdMcuData (w m : Nat)
  /-- R202. -/
  | rdMcuStatus (w m : Nat)
  /-- R203: MCU CPU u, link m, port p. -/
  | wrMcuDdr (u m : Nat) (p : Port) (d : Byte)
  /-- R204. -/
  | wrMcuPort (u m : Nat) (p : Port) (d : Byte)
  /-- R205. -/
  | rdMcuPort (u m : Nat) (p : Port)
  /-- R140: sound device dev. -/
  | wrSound (c dev off : Nat) (d : Byte)
  /-- R141. -/
  | rdSound (c dev off : Nat)
  /-- R142. -/
  | rdSoundBusy (c dev : Nat)
  /-- R143: first input index i0. -/
  | rdInput (c i0 off : Nat)
  /-- R230: layer l, window offset off. -/
  | wrVreg (w l off : Nat) (d : Byte)
  /-- R231. -/
  | wrVregScrollxLo (w l : Nat) (d : Byte)
  /-- R232. -/
  | wrVregScrollxHi (w l : Nat) (d : Byte)
  /-- R233. -/
  | wrVregScrolly (w l : Nat) (d : Byte)
  /-- R234. -/
  | wrVregBank (w l : Nat) (d : Byte)
  /-- R235. -/
  | wrVregCtrl (w l : Nat) (d : Byte)
  /-- R238. -/
  | wrPalette (w b o off : Nat) (d : Byte)
  /-- R239. -/
  | rdPalette (w b o off : Nat)
  /-- R167; with `early` set, the query of R169, limited to asserted lines. -/
  | intQuery (c : Nat) (early : Bool)
  /-- R163. -/
  | intAssert (c : Nat) (t : IntType) (mode : AssertMode)
  /-- R164. -/
  | intClear (c : Nat) (t : IntType)
  /-- R165. -/
  | nmiTrigger (c : Nat)
  /-- R207. -/
  | actLatchFromMain (m : Nat)
  /-- R208. -/
  | actSendToMain (m : Nat)
  /-- R195. -/
  | hsYield (w : Nat)
  /-- R311. -/
  | schedSlice
  /-- R310. -/
  | schedFrame
  /-- R252. -/
  | compose
  /-- R254. -/
  | tileResolve (l cell : Nat)
  /-- R258: layer l, screen-flip bit fs. -/
  | layerDraw (l : Nat) (fs : Bool)
  /-- R261. -/
  | spriteDecode (i : Nat)
  /-- R264. -/
  | spriteDraw (s : SpriteRec) (fs : Bool)
  /-- R267. -/
  | paletteResolve
  /-- R330. -/
  | reset
  /-- R300. -/
  | configCheck
deriving DecidableEq, Repr

end Sys2Proof
end

