-- ==== Sys2Proof/WellFormed.lean ====
section
/-! DEFINITION. Which operations the operation word (Decode.lean, log entry 4) can carry: the range of each operand.
The ranges are those of the model's own operand bytes; the spec bounds none of them but a bit position (R7: 0..7). -/

namespace Sys2Proof

/-- A one-byte operand: a CPU number. -/
abbrev fits8 (n : Nat) : Bool := n < 2 ^ 8

/-- A two-byte operand: the number of a buffer, bank, region, handshake, link, device, layer or line. -/
abbrev fits16 (n : Nat) : Bool := n < 2 ^ 16

/-- A four-byte operand: an address, offset, cell, index, code. -/
abbrev fits32 (n : Nat) : Bool := n < 2 ^ 32

/-- A signed four-byte operand: a sprite's X. -/
abbrev fitsInt32 (x : Int) : Bool := -(2 ^ 31) ≤ x && x < 2 ^ 31

/-- A bit position of a byte (R7). -/
abbrev fitsBit (n : Nat) : Bool := n < 8

/-- The number of an interrupt type: NMI 0, FIRQ 1, IRQ 2, IRQ1 3, then the others. -/
def IntType.code : IntType → Nat
  | .nmi => 0
  | .firq => 1
  | .irq => 2
  | .irq1 => 3
  | .other n => n + 4

/-- The type of a number. -/
def IntType.ofCode : Nat → IntType
  | 0 => .nmi
  | 1 => .firq
  | 2 => .irq
  | 3 => .irq1
  | n + 4 => .other n

/-- The ranges of a decoded sprite's fields. -/
def SpriteRec.wellFormed (s : SpriteRec) : Bool :=
  fits32 s.code && fitsInt32 s.x && fits32 s.y && fits32 s.color && fits32 s.prio

/-- Every operand of the operation lies in its range. -/
def Instr.wellFormed : Instr → Bool
  | .rdOpen c a => fits8 c && fits32 a
  | .wrOpen c a _ => fits8 c && fits32 a
  | .rdRam c b o off => fits8 c && fits16 b && fits32 o && fits32 off
  | .wrRam c b o off _ => fits8 c && fits16 b && fits32 o && fits32 off
  | .rdRom c b o off => fits8 c && fits16 b && fits32 o && fits32 off
  | .rdBank c k off => fits8 c && fits16 k && fits32 off
  | .wrBank c k off _ => fits8 c && fits16 k && fits32 off
  | .wrBanksel c k _ => fits8 c && fits16 k
  | .rdShared c r off => fits8 c && fits16 r && fits32 off
  | .wrShared c r off _ => fits8 c && fits16 r && fits32 off
  | .wrIrqen w c line bit _ => fits8 w && fits8 c && fits16 line && fitsBit bit
  | .wrNmien w c _ => fits8 w && fits8 c
  | .wrIrqclr w c t _ => fits8 w && fits8 c && fits16 t.code
  | .wrHsCmd w h _ => fits8 w && fits16 h
  | .rdHsCmd c h => fits8 c && fits16 h
  | .wrHsRes c h _ => fits8 c && fits16 h
  | .rdHsRes w h => fits8 w && fits16 h
  | .rdHsStatus c h => fits8 c && fits16 h
  | .wrMcuData w m _ => fits8 w && fits16 m
  | .rdMcuData w m => fits8 w && fits16 m
  | .rdMcuStatus w m => fits8 w && fits16 m
  | .wrMcuDdr u m _ _ => fits8 u && fits16 m
  | .wrMcuPort u m _ _ => fits8 u && fits16 m
  | .rdMcuPort u m _ => fits8 u && fits16 m
  | .wrSound c dev off _ => fits8 c && fits16 dev && fits32 off
  | .rdSound c dev off => fits8 c && fits16 dev && fits32 off
  | .rdSoundBusy c dev => fits8 c && fits16 dev
  | .rdInput c i0 off => fits8 c && fits32 i0 && fits32 off
  | .wrVreg w l off _ => fits8 w && fits16 l && fits32 off
  | .wrVregScrollxLo w l _ => fits8 w && fits16 l
  | .wrVregScrollxHi w l _ => fits8 w && fits16 l
  | .wrVregScrolly w l _ => fits8 w && fits16 l
  | .wrVregBank w l _ => fits8 w && fits16 l
  | .wrVregCtrl w l _ => fits8 w && fits16 l
  | .wrPalette w b o off _ => fits8 w && fits16 b && fits32 o && fits32 off
  | .rdPalette w b o off => fits8 w && fits16 b && fits32 o && fits32 off
  | .intQuery c _ => fits8 c
  | .intAssert c t _ => fits8 c && fits16 t.code
  | .intClear c t => fits8 c && fits16 t.code
  | .nmiTrigger c => fits8 c
  | .actLatchFromMain m => fits16 m
  | .actSendToMain m => fits16 m
  | .hsYield w => fits8 w
  | .schedSlice => true
  | .schedFrame => true
  | .compose => true
  | .tileResolve l cell => fits16 l && fits32 cell
  | .layerDraw l _ => fits16 l
  | .spriteDecode i => fits32 i
  | .spriteDraw s _ => s.wellFormed
  | .paletteResolve => true
  | .reset => true
  | .configCheck => true

end Sys2Proof
end

