-- ==== Sys2Proof/Decode.lean ====
section
/-! DEFINITION. Decoding, in two forms, and the encoders.
1. A bus transaction is decoded against the address map of the CPU that presents it (R92, R120, R121): the entry that
   covers the address gives the capability and its arguments; the key `(dir << 7) | tag` selects the operation. The
   48-bit word of R102 is the notation in which a script writes an event of its CPUs.
2. An OPERATION WORD names any operation of the opcode table by its key (R92, R103): the key byte, then the
   operation's operands, each in a fixed number of bytes, the least significant byte first. R103 gives an internal
   operation a key and no transaction word: the operand bytes are the model's own (log entry 4). -/

namespace Sys2Proof

/-! ### 1. Events and their transaction words (R102, R103) -/

/-- One event of the environment (R102, R103): a transaction of a CPU at an address, a query, the end of a slice or of a
frame. Any CPU number and any address, as R3 and R120 have them: only the word of R102 has fields of a fixed width. -/
inductive BusEvent where
  | read (c a : Nat)
  | write (c a : Nat) (d : Byte)
  | query (c : Nat)
  | slice
  | frame
deriving DecidableEq, Repr

/-- A line of a script: an event, or none, a word that R102 gives no event (reserved). -/
abbrev ScriptLine := Option BusEvent

/-- The fields of R102: kind, cpu, addr, data. -/
def wordOf (kind cpu addr : Nat) (data : Byte) : TxnWord :=
  BitVec.ofNat 48 (kind * 2 ^ 44 + cpu * 2 ^ 40 + addr * 2 ^ 8 + data.toNat)

/-- The ranges of an event's fields in the word: four bits of CPU, 32 of address (R102). -/
def BusEvent.wellFormed : BusEvent → Bool
  | .read c a => c < 2 ^ 4 && a < 2 ^ 32
  | .write c a _ => c < 2 ^ 4 && a < 2 ^ 32
  | .query c => c < 2 ^ 4
  | .slice => true
  | .frame => true

/-- The fields of an event's word, each in its range for a well-formed event. -/
def eventWord : BusEvent → TxnWord
  | .read c a => wordOf 0 c a 0
  | .write c a d => wordOf 1 c a d
  | .query c => wordOf 2 c 0 0
  | .slice => wordOf 3 0 0 0
  | .frame => wordOf 4 0 0 0

/-- The transaction word of an event (R102). DESIGN CHOICE (log entry 20): an event whose CPU or address does not fit the
word's fields has no word; the spec says nothing of its notation. -/
def encodeWord (e : BusEvent) : Option TxnWord := if e.wellFormed then some (eventWord e) else none

/-- The event of a transaction word (R102); `none` for a reserved kind (0x5 to 0xF) or a field that the kind has
as 0 and the word does not. -/
def decodeWord (w : TxnWord) : Option BusEvent :=
  let kind := w.toNat / 2 ^ 44
  let cpu := w.toNat / 2 ^ 40 % 2 ^ 4
  let addr := w.toNat / 2 ^ 8 % 2 ^ 32
  let data := BitVec.ofNat 8 w.toNat
  match kind with
  | 0 => if data = 0 then some (.read cpu addr) else none
  | 1 => some (.write cpu addr data)
  | 2 => if addr = 0 ∧ data = 0 then some (.query cpu) else none
  | 3 => if cpu = 0 ∧ addr = 0 ∧ data = 0 then some .slice else none
  | 4 => if cpu = 0 ∧ addr = 0 ∧ data = 0 then some .frame else none
  | _ => none

/-- A script written in the words of R102. -/
def scriptOfWords (ws : List TxnWord) : List ScriptLine := ws.map decodeWord

/-! ### 2. The map entry and the decode key (R90 to R92, R120, R121) -/

/-- The capability tag (R91). -/
def Cap.tag : Cap → Nat
  | .ram .. => 0x01
  | .rom .. => 0x02
  | .banked .. => 0x03
  | .banksel .. => 0x04
  | .shared .. => 0x05
  | .irqen .. => 0x06
  | .nmien .. => 0x07
  | .irqclr .. => 0x08
  | .hsCmd .. => 0x09
  | .hsRes .. => 0x0A
  | .hsStatus .. => 0x0B
  | .mcuData .. => 0x0C
  | .mcuStatus .. => 0x0D
  | .mcuPort .. => 0x0E
  | .mcuDdr .. => 0x0F
  | .sound .. => 0x10
  | .soundBusy .. => 0x11
  | .input .. => 0x12
  | .vreg .. => 0x13
  | .palette .. => 0x14
  | .reserved t => t

/-- The direction bit of the decode key (R92). -/
def Dir.bit : Dir → Nat
  | .read => 0
  | .write => 1

/-- `key = (dir << 7) | tag` (R92). -/
def decodeKey (dir : Dir) (tag : Nat) : Nat := dir.bit <<< 7 ||| tag

/-- The entry covers address a (R90: both ends included). -/
def Entry.covers (e : Entry) (a : Nat) : Bool := e.start ≤ a && a ≤ e.stop

/-- `READ_MAP[c]` or `WRITE_MAP[c]` (R60); no entries for a CPU that does not exist. -/
def Config.map (cfg : Config) (c : Nat) (dir : Dir) : List Entry :=
  match cfg.cpus[c]?, dir with
  | some cpu, .read => cpu.readMap
  | some cpu, .write => cpu.writeMap
  | none, _ => []

/-- `lookup(map, a)` (R121): the first entry that covers the address; the list is in order of `start` (R90). -/
def lookup (map : List Entry) (a : Nat) : Option Entry := map.find? (·.covers a)

/-- The field of layer l's video register block at an offset (`VREG_LAYOUT[l]`, R230). -/
def Config.vregField (cfg : Config) (l off : Nat) : Option VregField :=
  match cfg.layers[l]? with
  | some layer => (layer.vregLayout.find? (fun p => p.1 == off)).map (·.2)
  | none => none

/-- The operation of a write to a video register block (R230): the field's own, or WR.VREG where the layout names no
field at the offset. -/
def vregInstr (cfg : Config) (w l off : Nat) (d : Byte) : Instr :=
  match cfg.vregField l off with
  | some .scrollxLo => .wrVregScrollxLo w l d
  | some .scrollxHi => .wrVregScrollxHi w l d
  | some .scrolly => .wrVregScrolly w l d
  | some .bank => .wrVregBank w l d
  | some .ctrl => .wrVregCtrl w l d
  | none => .wrVreg w l off d

/-- The operation that a capability gives a transaction of a direction (the table of R91), with its arguments, the
window offset and the byte; `none` for a pair that R91 marks "no" or reserves: no operation (R92). -/
def capInstr (cfg : Config) (c : Nat) (dir : Dir) (cap : Cap) (off : Nat) (d : Byte) : Option Instr :=
  match dir, cap with
  | .read, .ram b o => some (.rdRam c b o off)
  | .write, .ram b o => some (.wrRam c b o off d)
  | .read, .rom b o => some (.rdRom c b o off)
  | .write, .rom _ _ => none
  | .read, .banked k => some (.rdBank c k off)
  | .write, .banked k => some (.wrBank c k off d)
  | .read, .banksel _ => none
  | .write, .banksel k => some (.wrBanksel c k d)
  | .read, .shared r => some (.rdShared c r off)
  | .write, .shared r => some (.wrShared c r off d)
  | .read, .irqen _ _ _ => none
  | .write, .irqen t line bit => some (.wrIrqen c t line bit d)
  | .read, .nmien _ => none
  | .write, .nmien t => some (.wrNmien c t d)
  | .read, .irqclr _ _ => none
  | .write, .irqclr t ty => some (.wrIrqclr c t ty d)
  | .read, .hsCmd h => some (.rdHsCmd c h)
  | .write, .hsCmd h => some (.wrHsCmd c h d)
  | .read, .hsRes h => some (.rdHsRes c h)
  | .write, .hsRes h => some (.wrHsRes c h d)
  | .read, .hsStatus h => some (.rdHsStatus c h)
  | .write, .hsStatus _ => none
  | .read, .mcuData m => some (.rdMcuData c m)
  | .write, .mcuData m => some (.wrMcuData c m d)
  | .read, .mcuStatus m => some (.rdMcuStatus c m)
  | .write, .mcuStatus _ => none
  | .read, .mcuPort m p => some (.rdMcuPort c m p)
  | .write, .mcuPort m p => some (.wrMcuPort c m p d)
  | .read, .mcuDdr _ _ => none
  | .write, .mcuDdr m p => some (.wrMcuDdr c m p d)
  | .read, .sound dev => some (.rdSound c dev off)
  | .write, .sound dev => some (.wrSound c dev off d)
  | .read, .soundBusy dev => some (.rdSoundBusy c dev)
  | .write, .soundBusy _ => none
  | .read, .input i0 => some (.rdInput c i0 off)
  | .write, .input _ => none
  | .read, .vreg _ => none
  | .write, .vreg l => some (vregInstr cfg c l off d)
  | .read, .palette b o => some (.rdPalette c b o off)
  | .write, .palette b o => some (.wrPalette c b o off d)
  | _, .reserved _ => none

/-- The open-bus operation of an address with no entry (R122, R123). -/
def openInstr (c : Nat) (dir : Dir) (a : Nat) (d : Byte) : Instr :=
  match dir with
  | .read => .rdOpen c a
  | .write => .wrOpen c a d

/-- The operation a transaction performs (R120): look the address up in the CPU's list of the direction; with an
entry e, the operation of its capability with `off = a - e.start`; without one, open bus. -/
def txnInstr (cfg : Config) (c : Nat) (dir : Dir) (a : Nat) (d : Byte) : Option Instr :=
  match lookup (cfg.map c dir) a with
  | some e => capInstr cfg c dir e.cap (a - e.start) d
  | none => some (openInstr c dir a d)

/-! ### 3. Operation words (R92, R103; log entry 4) -/

/-- The decode key of an operation: the `match` of its row of spec/opcode_table.json (R103). -/
def Instr.key : Instr → Byte
  | .rdOpen .. => 0x00
  | .wrOpen .. => 0x80
  | .rdRam .. => 0x01
  | .wrRam .. => 0x81
  | .rdRom .. => 0x02
  | .rdBank .. => 0x03
  | .wrBank .. => 0x83
  | .wrBanksel .. => 0x84
  | .rdShared .. => 0x05
  | .wrShared .. => 0x85
  | .wrIrqen .. => 0x86
  | .wrNmien .. => 0x87
  | .wrIrqclr .. => 0x88
  | .wrHsCmd .. => 0x89
  | .rdHsCmd .. => 0x09
  | .wrHsRes .. => 0x8A
  | .rdHsRes .. => 0x0A
  | .rdHsStatus .. => 0x0B
  | .wrMcuData .. => 0x8C
  | .rdMcuData .. => 0x0C
  | .rdMcuStatus .. => 0x0D
  | .wrMcuDdr .. => 0x8F
  | .wrMcuPort .. => 0x8E
  | .rdMcuPort .. => 0x0E
  | .wrSound .. => 0x90
  | .rdSound .. => 0x10
  | .rdSoundBusy .. => 0x11
  | .rdInput .. => 0x12
  | .wrVreg .. => 0x93
  | .wrVregScrollxLo .. => 0x93
  | .wrVregScrollxHi .. => 0x93
  | .wrVregScrolly .. => 0x93
  | .wrVregBank .. => 0x93
  | .wrVregCtrl .. => 0x93
  | .wrPalette .. => 0x94
  | .rdPalette .. => 0x14
  | .intQuery .. => 0x40
  | .intAssert .. => 0x41
  | .intClear .. => 0x42
  | .nmiTrigger .. => 0x43
  | .actLatchFromMain .. => 0x44
  | .actSendToMain .. => 0x45
  | .hsYield .. => 0x46
  | .schedSlice => 0x48
  | .schedFrame => 0x49
  | .compose => 0x4A
  | .tileResolve .. => 0x50
  | .layerDraw .. => 0x51
  | .spriteDecode .. => 0x52
  | .spriteDraw .. => 0x53
  | .paletteResolve => 0x54
  | .reset => 0x58
  | .configCheck => 0x59

/-! #### Operand bytes -/

/-- One byte of a number. -/
def enc8 (n : Nat) : List Byte := [BitVec.ofNat 8 n]

/-- Two bytes of a number, the least significant first. -/
def enc16 (n : Nat) : List Byte := [BitVec.ofNat 8 n, BitVec.ofNat 8 (n / 2 ^ 8)]

/-- Four bytes of a number, the least significant first. -/
def enc32 (n : Nat) : List Byte :=
  [BitVec.ofNat 8 n, BitVec.ofNat 8 (n / 2 ^ 8), BitVec.ofNat 8 (n / 2 ^ 16), BitVec.ofNat 8 (n / 2 ^ 24)]

/-- Four bytes of a signed number, in two's complement. -/
def encInt32 (x : Int) : List Byte := enc32 (x % 2 ^ 32).toNat

/-- A bit as a byte 0x00 or 0x01. -/
def encBool (b : Bool) : List Byte := if b then [1] else [0]

/-- An assertion mode: PULSE 0x00, LEVEL 0x01. -/
def encMode : AssertMode → List Byte
  | .pulse => [0]
  | .level => [1]

/-- A port: A 0x00, B 0x01. -/
def encPort : Port → List Byte
  | .a => [0]
  | .b => [1]

/-- The fields of a decoded sprite, in the order of R261. -/
def encSprite (s : SpriteRec) : List Byte :=
  enc32 s.code ++ encInt32 s.x ++ enc32 s.y ++ enc32 s.color ++ encBool s.flipX ++ encBool s.flipY ++
    enc8 s.size.val ++ enc32 s.prio

/-- The operand bytes of an operation, in the order of its constructor's operands. A video register write has its
field first: 0 none, 1 SCROLLX_LO, 2 SCROLLX_HI, 3 SCROLLY, 4 BANK, 5 CTRL, because the six rows share one key
(R103). -/
def Instr.operands : Instr → List Byte
  | .rdOpen c a => enc8 c ++ enc32 a
  | .wrOpen c a d => enc8 c ++ enc32 a ++ [d]
  | .rdRam c b o off => enc8 c ++ enc16 b ++ enc32 o ++ enc32 off
  | .wrRam c b o off d => enc8 c ++ enc16 b ++ enc32 o ++ enc32 off ++ [d]
  | .rdRom c b o off => enc8 c ++ enc16 b ++ enc32 o ++ enc32 off
  | .rdBank c k off => enc8 c ++ enc16 k ++ enc32 off
  | .wrBank c k off d => enc8 c ++ enc16 k ++ enc32 off ++ [d]
  | .wrBanksel c k d => enc8 c ++ enc16 k ++ [d]
  | .rdShared c r off => enc8 c ++ enc16 r ++ enc32 off
  | .wrShared c r off d => enc8 c ++ enc16 r ++ enc32 off ++ [d]
  | .wrIrqen w c line bit d => enc8 w ++ enc8 c ++ enc16 line ++ enc8 bit ++ [d]
  | .wrNmien w c d => enc8 w ++ enc8 c ++ [d]
  | .wrIrqclr w c t d => enc8 w ++ enc8 c ++ enc16 t.code ++ [d]
  | .wrHsCmd w h d => enc8 w ++ enc16 h ++ [d]
  | .rdHsCmd c h => enc8 c ++ enc16 h
  | .wrHsRes c h d => enc8 c ++ enc16 h ++ [d]
  | .rdHsRes w h => enc8 w ++ enc16 h
  | .rdHsStatus c h => enc8 c ++ enc16 h
  | .wrMcuData w m d => enc8 w ++ enc16 m ++ [d]
  | .rdMcuData w m => enc8 w ++ enc16 m
  | .rdMcuStatus w m => enc8 w ++ enc16 m
  | .wrMcuDdr u m p d => enc8 u ++ enc16 m ++ encPort p ++ [d]
  | .wrMcuPort u m p d => enc8 u ++ enc16 m ++ encPort p ++ [d]
  | .rdMcuPort u m p => enc8 u ++ enc16 m ++ encPort p
  | .wrSound c dev off d => enc8 c ++ enc16 dev ++ enc32 off ++ [d]
  | .rdSound c dev off => enc8 c ++ enc16 dev ++ enc32 off
  | .rdSoundBusy c dev => enc8 c ++ enc16 dev
  | .rdInput c i0 off => enc8 c ++ enc32 i0 ++ enc32 off
  | .wrVreg w l off d => [0] ++ enc8 w ++ enc16 l ++ enc32 off ++ [d]
  | .wrVregScrollxLo w l d => [1] ++ enc8 w ++ enc16 l ++ [d]
  | .wrVregScrollxHi w l d => [2] ++ enc8 w ++ enc16 l ++ [d]
  | .wrVregScrolly w l d => [3] ++ enc8 w ++ enc16 l ++ [d]
  | .wrVregBank w l d => [4] ++ enc8 w ++ enc16 l ++ [d]
  | .wrVregCtrl w l d => [5] ++ enc8 w ++ enc16 l ++ [d]
  | .wrPalette w b o off d => enc8 w ++ enc16 b ++ enc32 o ++ enc32 off ++ [d]
  | .rdPalette w b o off => enc8 w ++ enc16 b ++ enc32 o ++ enc32 off
  | .intQuery c early => enc8 c ++ encBool early
  | .intAssert c t mode => enc8 c ++ enc16 t.code ++ encMode mode
  | .intClear c t => enc8 c ++ enc16 t.code
  | .nmiTrigger c => enc8 c
  | .actLatchFromMain m => enc16 m
  | .actSendToMain m => enc16 m
  | .hsYield w => enc8 w
  | .schedSlice => []
  | .schedFrame => []
  | .compose => []
  | .tileResolve l cell => enc16 l ++ enc32 cell
  | .layerDraw l fs => enc16 l ++ encBool fs
  | .spriteDecode i => enc32 i
  | .spriteDraw s fs => encSprite s ++ encBool fs
  | .paletteResolve => []
  | .reset => []
  | .configCheck => []

/-- The operation word of an operation: its key, then its operands. -/
def encode (i : Instr) : List Byte := i.key :: i.operands

/-! #### Readers: each takes its bytes off the list and hands the value and the rest on -/

/-- Reads one byte. -/
def getByte {α : Type} (bs : List Byte) (k : Byte → List Byte → Option α) : Option α :=
  match bs with
  | b :: rest => k b rest
  | [] => none

/-- Reads `enc8`. -/
def get8 {α : Type} (bs : List Byte) (k : Nat → List Byte → Option α) : Option α :=
  match bs with
  | b :: rest => k b.toNat rest
  | [] => none

/-- Reads `enc16`. -/
def get16 {α : Type} (bs : List Byte) (k : Nat → List Byte → Option α) : Option α :=
  match bs with
  | b0 :: b1 :: rest => k (b0.toNat + b1.toNat * 2 ^ 8) rest
  | _ => none

/-- Reads `enc32`. -/
def get32 {α : Type} (bs : List Byte) (k : Nat → List Byte → Option α) : Option α :=
  match bs with
  | b0 :: b1 :: b2 :: b3 :: rest =>
    k (b0.toNat + b1.toNat * 2 ^ 8 + b2.toNat * 2 ^ 16 + b3.toNat * 2 ^ 24) rest
  | _ => none

/-- Reads `encInt32`. -/
def getInt32 {α : Type} (bs : List Byte) (k : Int → List Byte → Option α) : Option α :=
  get32 bs fun n rest => k (if n < 2 ^ 31 then (n : Int) else (n : Int) - 2 ^ 32) rest

/-- Reads `encBool`; any other byte is refused. -/
def getBool {α : Type} (bs : List Byte) (k : Bool → List Byte → Option α) : Option α :=
  get8 bs fun n rest => match n with
    | 0 => k false rest
    | 1 => k true rest
    | _ => none

/-- Reads `encMode`; any other byte is refused. -/
def getMode {α : Type} (bs : List Byte) (k : AssertMode → List Byte → Option α) : Option α :=
  get8 bs fun n rest => match n with
    | 0 => k .pulse rest
    | 1 => k .level rest
    | _ => none

/-- Reads `encPort`; any other byte is refused. -/
def getPort {α : Type} (bs : List Byte) (k : Port → List Byte → Option α) : Option α :=
  get8 bs fun n rest => match n with
    | 0 => k .a rest
    | 1 => k .b rest
    | _ => none

/-- Reads a bit position; one past 7 is refused (R7). -/
def getBit {α : Type} (bs : List Byte) (k : Nat → List Byte → Option α) : Option α :=
  get8 bs fun n rest => if n < 8 then k n rest else none

/-- Reads a size class; one past 3 is refused (R263). -/
def getSize {α : Type} (bs : List Byte) (k : Fin 4 → List Byte → Option α) : Option α :=
  get8 bs fun n rest => if h : n < 4 then k ⟨n, h⟩ rest else none

/-- Reads `encSprite`. -/
def getSprite {α : Type} (bs : List Byte) (k : SpriteRec → List Byte → Option α) : Option α :=
  get32 bs fun code bs => getInt32 bs fun x bs => get32 bs fun y bs => get32 bs fun color bs =>
  getBool bs fun flipX bs => getBool bs fun flipY bs => getSize bs fun size bs => get32 bs fun prio bs =>
  k ⟨code, x, y, color, flipX, flipY, size, prio⟩ bs

/-- A video register write, by its field byte. -/
def getVreg (bs : List Byte) : Option (Instr × List Byte) :=
  get8 bs fun f bs => get8 bs fun w bs => get16 bs fun l bs => match f with
    | 0 => get32 bs fun off bs => getByte bs fun d bs => some (.wrVreg w l off d, bs)
    | 1 => getByte bs fun d bs => some (.wrVregScrollxLo w l d, bs)
    | 2 => getByte bs fun d bs => some (.wrVregScrollxHi w l d, bs)
    | 3 => getByte bs fun d bs => some (.wrVregScrolly w l d, bs)
    | 4 => getByte bs fun d bs => some (.wrVregBank w l d, bs)
    | 5 => getByte bs fun d bs => some (.wrVregCtrl w l d, bs)
    | _ => none

/-- The operation of a key (R103) with its operands read from the bytes after it; `none` for a reserved key (R92)
or operand bytes no operation has. -/
def decodeKeyed (key : Nat) (bs : List Byte) : Option (Instr × List Byte) :=
  match key with
  | 0x00 => get8 bs fun c bs => get32 bs fun a bs => some (.rdOpen c a, bs)
  | 0x80 => get8 bs fun c bs => get32 bs fun a bs => getByte bs fun d bs => some (.wrOpen c a d, bs)
  | 0x01 => get8 bs fun c bs => get16 bs fun b bs => get32 bs fun o bs => get32 bs fun off bs =>
      some (.rdRam c b o off, bs)
  | 0x81 => get8 bs fun c bs => get16 bs fun b bs => get32 bs fun o bs => get32 bs fun off bs =>
      getByte bs fun d bs => some (.wrRam c b o off d, bs)
  | 0x02 => get8 bs fun c bs => get16 bs fun b bs => get32 bs fun o bs => get32 bs fun off bs =>
      some (.rdRom c b o off, bs)
  | 0x03 => get8 bs fun c bs => get16 bs fun k bs => get32 bs fun off bs => some (.rdBank c k off, bs)
  | 0x83 => get8 bs fun c bs => get16 bs fun k bs => get32 bs fun off bs => getByte bs fun d bs =>
      some (.wrBank c k off d, bs)
  | 0x84 => get8 bs fun c bs => get16 bs fun k bs => getByte bs fun d bs => some (.wrBanksel c k d, bs)
  | 0x05 => get8 bs fun c bs => get16 bs fun r bs => get32 bs fun off bs => some (.rdShared c r off, bs)
  | 0x85 => get8 bs fun c bs => get16 bs fun r bs => get32 bs fun off bs => getByte bs fun d bs =>
      some (.wrShared c r off d, bs)
  | 0x86 => get8 bs fun w bs => get8 bs fun c bs => get16 bs fun line bs => getBit bs fun bit bs =>
      getByte bs fun d bs => some (.wrIrqen w c line bit d, bs)
  | 0x87 => get8 bs fun w bs => get8 bs fun c bs => getByte bs fun d bs => some (.wrNmien w c d, bs)
  | 0x88 => get8 bs fun w bs => get8 bs fun c bs => get16 bs fun t bs => getByte bs fun d bs =>
      some (.wrIrqclr w c (IntType.ofCode t) d, bs)
  | 0x89 => get8 bs fun w bs => get16 bs fun h bs => getByte bs fun d bs => some (.wrHsCmd w h d, bs)
  | 0x09 => get8 bs fun c bs => get16 bs fun h bs => some (.rdHsCmd c h, bs)
  | 0x8A => get8 bs fun c bs => get16 bs fun h bs => getByte bs fun d bs => some (.wrHsRes c h d, bs)
  | 0x0A => get8 bs fun w bs => get16 bs fun h bs => some (.rdHsRes w h, bs)
  | 0x0B => get8 bs fun c bs => get16 bs fun h bs => some (.rdHsStatus c h, bs)
  | 0x8C => get8 bs fun w bs => get16 bs fun m bs => getByte bs fun d bs => some (.wrMcuData w m d, bs)
  | 0x0C => get8 bs fun w bs => get16 bs fun m bs => some (.rdMcuData w m, bs)
  | 0x0D => get8 bs fun w bs => get16 bs fun m bs => some (.rdMcuStatus w m, bs)
  | 0x8F => get8 bs fun u bs => get16 bs fun m bs => getPort bs fun p bs => getByte bs fun d bs =>
      some (.wrMcuDdr u m p d, bs)
  | 0x8E => get8 bs fun u bs => get16 bs fun m bs => getPort bs fun p bs => getByte bs fun d bs =>
      some (.wrMcuPort u m p d, bs)
  | 0x0E => get8 bs fun u bs => get16 bs fun m bs => getPort bs fun p bs => some (.rdMcuPort u m p, bs)
  | 0x90 => get8 bs fun c bs => get16 bs fun dev bs => get32 bs fun off bs => getByte bs fun d bs =>
      some (.wrSound c dev off d, bs)
  | 0x10 => get8 bs fun c bs => get16 bs fun dev bs => get32 bs fun off bs => some (.rdSound c dev off, bs)
  | 0x11 => get8 bs fun c bs => get16 bs fun dev bs => some (.rdSoundBusy c dev, bs)
  | 0x12 => get8 bs fun c bs => get32 bs fun i0 bs => get32 bs fun off bs => some (.rdInput c i0 off, bs)
  | 0x93 => getVreg bs
  | 0x94 => get8 bs fun w bs => get16 bs fun b bs => get32 bs fun o bs => get32 bs fun off bs =>
      getByte bs fun d bs => some (.wrPalette w b o off d, bs)
  | 0x14 => get8 bs fun w bs => get16 bs fun b bs => get32 bs fun o bs => get32 bs fun off bs =>
      some (.rdPalette w b o off, bs)
  | 0x40 => get8 bs fun c bs => getBool bs fun early bs => some (.intQuery c early, bs)
  | 0x41 => get8 bs fun c bs => get16 bs fun t bs => getMode bs fun mode bs =>
      some (.intAssert c (IntType.ofCode t) mode, bs)
  | 0x42 => get8 bs fun c bs => get16 bs fun t bs => some (.intClear c (IntType.ofCode t), bs)
  | 0x43 => get8 bs fun c bs => some (.nmiTrigger c, bs)
  | 0x44 => get16 bs fun m bs => some (.actLatchFromMain m, bs)
  | 0x45 => get16 bs fun m bs => some (.actSendToMain m, bs)
  | 0x46 => get8 bs fun w bs => some (.hsYield w, bs)
  | 0x48 => some (.schedSlice, bs)
  | 0x49 => some (.schedFrame, bs)
  | 0x4A => some (.compose, bs)
  | 0x50 => get16 bs fun l bs => get32 bs fun cell bs => some (.tileResolve l cell, bs)
  | 0x51 => get16 bs fun l bs => getBool bs fun fs bs => some (.layerDraw l fs, bs)
  | 0x52 => get32 bs fun i bs => some (.spriteDecode i, bs)
  | 0x53 => getSprite bs fun s bs => getBool bs fun fs bs => some (.spriteDraw s fs, bs)
  | 0x54 => some (.paletteResolve, bs)
  | 0x58 => some (.reset, bs)
  | 0x59 => some (.configCheck, bs)
  | _ => none

/-- The operation at the head of a list of bytes, and the bytes after its word. -/
def decode (bytes : List Byte) : Option (Instr × List Byte) :=
  match bytes with
  | key :: rest => decodeKeyed key.toNat rest
  | [] => none

/-- The bytes of an operation word that the opcode table numbers as the bits of w, the first byte the least
significant, with every byte above `nbits` zero up to the longest word. -/
def tableBytes (nbits w : Nat) : List Byte :=
  (List.range (nbits / 8)).map (fun i => BitVec.ofNat 8 (w / 2 ^ (8 * i))) ++ List.replicate 32 0

/-- The operation that the decoder reads from the bits w of a row of the opcode table. -/
def decodeTableWord (nbits w : Nat) : Option Instr := (decode (tableBytes nbits w)).map (·.1)

end Sys2Proof
end

