-- ==== Sys2Proof/Machine/Tc1.lean ====
section
/-! DEFINITION. The test configuration TC1 (spec 95_test_vectors.md §1), the only complete configuration the spec
gives. State.reset carries it (log entry 1). The images the spec leaves free (B8, B11: "any image"; INIT_RAM: a draw)
are 0 here (log entry 3). -/

namespace Sys2Proof.Tc1

/-- The argument i. -/
abbrev x (i : Nat) : Formula := .arg i

/-- A number. -/
abbrev n (v : Nat) : Formula := .const v

/-- `B0[i] = i & 0xFF` (§1.1). -/
def imageB0 : Formula := .band (x 0) (n 0xFF)

/-- `B1[i] = ((i >> 13) << 4) + (i & 0x0F)` (§1.1). -/
def imageB1 : Formula := .add (.shl (.shr (x 0) (n 13)) (n 4)) (.band (x 0) (n 0x0F))

/-- A ROM buffer. -/
def rom (size : Nat) (image : Formula) : BufferCfg := ⟨.rom, size, image⟩

/-- A RAM buffer with `INIT_RAM = 0` (the premise of §3, log entry 3). -/
def ram (size : Nat) : BufferCfg := ⟨.ram, size, n 0⟩

/-- Buffers B0 to B11 (§1.1). -/
def buffers : List BufferCfg :=
  [rom 0x8000 imageB0, rom 0x20000 imageB1, ram 0x2000, ram 0x800, ram 0x1000, ram 0x200, ram 0x100, ram 0x800,
   rom 0x4000 (n 0), ram 0x800, ram 0x70, rom 0x780 (n 0)]

/-- `READ_MAP[cpu0]` (§1.2). -/
def read0 : List Entry :=
  [⟨0x0000, 0x07FF, .ram 3 0⟩, ⟨0x1000, 0x1FFF, .ram 4 0⟩, ⟨0x2000, 0x3FFF, .shared 0⟩,
   ⟨0x4001, 0x4001, .hsRes 0⟩, ⟨0x4002, 0x4002, .hsStatus 0⟩, ⟨0x4010, 0x4010, .mcuData 0⟩,
   ⟨0x4011, 0x4011, .mcuStatus 0⟩, ⟨0x4020, 0x4021, .input 0⟩, ⟨0x4800, 0x4FFF, .ram 9 0⟩,
   ⟨0x5000, 0x51FF, .ram 5 0⟩, ⟨0x5200, 0x52FF, .palette 6 0⟩, ⟨0x6000, 0x7FFF, .banked 0⟩,
   ⟨0x8000, 0xFFFF, .rom 0 0⟩]

/-- `WRITE_MAP[cpu0]` (§1.2). -/
def write0 : List Entry :=
  [⟨0x0000, 0x07FF, .ram 3 0⟩, ⟨0x1000, 0x1FFF, .ram 4 0⟩, ⟨0x2000, 0x3FFF, .shared 0⟩,
   ⟨0x4000, 0x4000, .hsCmd 0⟩, ⟨0x4010, 0x4010, .mcuData 0⟩, ⟨0x4030, 0x4030, .banksel 0⟩,
   ⟨0x4040, 0x4047, .vreg 0⟩, ⟨0x4048, 0x404F, .vreg 1⟩, ⟨0x4050, 0x4050, .irqen 0 1 1⟩,
   ⟨0x4051, 0x4051, .irqclr 0 .irq⟩, ⟨0x4800, 0x4FFF, .ram 9 0⟩, ⟨0x5000, 0x51FF, .ram 5 0⟩,
   ⟨0x5200, 0x52FF, .palette 6 0⟩]

/-- `READ_MAP[cpu1]` (§1.2). -/
def read1 : List Entry :=
  [⟨0x0000, 0x3FFF, .rom 8 0⟩, ⟨0x4000, 0x47FF, .ram 7 0⟩, ⟨0x8000, 0x9FFF, .shared 0⟩,
   ⟨0xA000, 0xA000, .hsCmd 0⟩, ⟨0xA002, 0xA002, .hsStatus 0⟩, ⟨0xC000, 0xC001, .sound 0⟩,
   ⟨0xC002, 0xC002, .soundBusy 0⟩]

/-- `WRITE_MAP[cpu1]` (§1.2). -/
def write1 : List Entry :=
  [⟨0x4000, 0x47FF, .ram 7 0⟩, ⟨0x8000, 0x9FFF, .shared 0⟩, ⟨0xA001, 0xA001, .hsRes 0⟩,
   ⟨0xC000, 0xC001, .sound 0⟩, ⟨0xE000, 0xE000, .nmien 1⟩]

/-- `READ_MAP[cpu2]` (§1.2). -/
def read2 : List Entry :=
  [⟨0x0000, 0x0000, .mcuPort 0 .a⟩, ⟨0x0001, 0x0001, .mcuPort 0 .b⟩, ⟨0x0010, 0x007F, .ram 10 0⟩,
   ⟨0x0080, 0x07FF, .rom 11 0⟩]

/-- `WRITE_MAP[cpu2]` (§1.2). -/
def write2 : List Entry :=
  [⟨0x0000, 0x0000, .mcuPort 0 .a⟩, ⟨0x0001, 0x0001, .mcuPort 0 .b⟩, ⟨0x0004, 0x0004, .mcuDdr 0 .a⟩,
   ⟨0x0005, 0x0005, .mcuDdr 0 .b⟩, ⟨0x0010, 0x007F, .ram 10 0⟩]

/-- CPUs cpu0, cpu1, cpu2 (§1.1, §1.3). -/
def cpus : List CpuCfg :=
  [⟨.m6809, 16, .highFirst, 0xFF, read0, write0, 1, [(0, .firq), (1, .irq1)], false, 0⟩,
   ⟨.z80, 16, .highFirst, 0xFF, read1, write1, 1, [], true, 0⟩,
   ⟨.m68705, 16, .highFirst, 0xFF, read2, write2, 1, [], false, 0⟩]

/-- Handshake h0 (§1.3). -/
def handshake0 : HandshakeCfg := ⟨0, 1, 0x00, .nmiTrigger 1, none, false⟩

/-- MCU link m0 (§1.3). -/
def link0 : LinkCfg where
  primary := 0
  mcu := 2
  triggers := [⟨1, .falling, .latchFromMain⟩, ⟨2, .rising, .sendToMain⟩]
  statusReadyBit := 0
  statusResultBit := 1
  statusInvert := 0x00
  mainWriteAssert := none
  sendAssert := some ⟨0, .irq, .level⟩
  latchClear := some ⟨0, .irq⟩
  dataReadClear := some ⟨0, .irq⟩

/-- `VREG_LAYOUT` of both layers (§1.4). -/
def vregLayout : List (Nat × VregField) :=
  [(0, .scrollxLo), (1, .scrollxHi), (2, .scrolly), (3, .bank), (4, .ctrl)]

/-- Layer 0 (§1.4): `BANK_FN(attr, v) = ((attr>>6)&3) + 4*(((attr>>5)&1) OR v)`. -/
def layer0 : LayerCfg where
  tileRam := 4
  cols := 64
  rows := 32
  tileW := 8
  tileH := 8
  cellAttrAddr := x 0
  cellCodeAddr := .add (n 0x800) (x 0)
  bankFn := .add (.band (.shr (x 0) (n 6)) (n 3)) (.mul (n 4) (.bor (.band (.shr (x 0) (n 5)) (n 1)) (x 1)))
  colorFn := .band (x 0) (n 0x0F)
  flipxFn := .band (.shr (x 0) (n 4)) (n 1)
  flipyFn := n 0
  numTiles := 4096
  gfxSet := 0
  scrollxBits := 9
  scrollxHiBit := 0
  transp := .opaqueAll
  colorBase := 0x00
  vregLayout := vregLayout
  vctrlIrq := some ⟨0, 0, 1⟩

/-- Layer 1 (§1.4). -/
def layer1 : LayerCfg where
  tileRam := 9
  cols := 32
  rows := 32
  tileW := 8
  tileH := 8
  cellAttrAddr := x 0
  cellCodeAddr := .add (n 0x400) (x 0)
  bankFn := .band (x 0) (n 0x03)
  colorFn := .band (.shr (x 0) (n 4)) (n 0x0F)
  flipxFn := n 0
  flipyFn := n 0
  numTiles := 1024
  gfxSet := 1
  scrollxBits := 8
  scrollxHiBit := 0
  transp := .pen 0
  colorBase := 0x40
  vregLayout := vregLayout
  vctrlIrq := none

/-- `SPRITE_LAYOUT` (§1.4). -/
def spriteLayout : SpriteLayout where
  y := ⟨0, 0, 8⟩
  codeLo := ⟨1, 0, 8⟩
  codeHi := some ⟨4, 1, 3⟩
  xByte := ⟨3, 0, 8⟩
  xExt := some ⟨4, 0, 1⟩
  color := ⟨2, 0, 4⟩
  flipX := ⟨2, 6, 1⟩
  flipY := ⟨2, 7, 1⟩
  size := ⟨2, 4, 2⟩
  prio := none

/-- `SPRITES` (§1.4). -/
def sprites : SpriteCfg where
  sprRam := 5
  sprBase := 0
  count := 64
  stride := 5
  layout := spriteLayout
  numSpriteTiles := 2048
  sprGfxSet := 2
  offscreenY := some 0xF8
  flipMaxX := 240
  flipMaxY := 208
  flipCorr := [(0, 0), (0, 0), (0, 0), (0, 0)]
  subtileOff := [[[0]], [[0], [1]], [[0, 1]], [[0, 1], [2, 3]]]
  sprColorBase := 0x80
  sprTranspPen := 0
  spriteOrder := List.range 64

/-- `PALETTE` (§1.4): one byte an entry, decoded as 3-3-2 (R267). -/
def palette : PaletteCfg where
  buffer := 6
  paletteSize := 256
  pensPerColor := 16
  decodeR := .div (.mul (.shr (.byte (x 0)) (n 5)) (n 255)) (n 7)
  decodeG := .div (.mul (.band (.shr (.byte (x 0)) (n 2)) (n 7)) (n 255)) (n 7)
  decodeB := .div (.mul (.band (.byte (x 0)) (n 3)) (n 255)) (n 3)
  bgPen := 0

/-- `GFX(set, code, px, py) = 0` when `code = 0`, else `(code + (code >> 8) + px + py) mod 16` (§1.4, D66). -/
def gfx : Formula :=
  .cond (x 1) (.mod (.add (.add (.add (x 1) (.shr (x 1) (n 8))) (x 2)) (x 3)) (n 16)) (n 0)

/-- The configuration TC1. -/
def config : Config where
  cpus := cpus
  buffers := buffers
  banks := [⟨1, 0, 0x2000, 0x0F⟩]
  shared := [⟨2, [⟨0, 0x2000, 0x3FFF⟩, ⟨1, 0x8000, 0x9FFF⟩]⟩]
  slices := 4
  intTypes := [.nmi, .firq, .irq, .irq1]
  intPriority := [.nmi, .firq, .irq, .irq1]
  handshakes := [handshake0]
  links := [link0]
  sounds := [0]
  layers := [layer0, layer1]
  flipSourceLayer := 0
  flipscreenBit := 0
  screenW := 256
  screenH := 224
  sprites := sprites
  xExtMode := .ninthBit
  palette := palette
  drawOrder := [.layer 0, .sprites none, .layer 1]
  gfx := gfx

end Sys2Proof.Tc1
end

