-- ==== Sys2Proof/Machine/State.lean ====
section
/-! DEFINITION. The state of the block as plain data: every piece of state of 10_state.md, the configuration it runs
under, and the model's own bookkeeping (the environment's script, the draw counter, the observation). The reasons a
step can stop. The state after reset.

An array of the spec indexed by an object (`st.bank[k]`, `st.cmd[h]`, ...) is a sparse table: a list of pairs (number,
value), the numbers strictly rising, in which an object at its reset value is not listed (Machine/Sparse.lean). So an
empty table is the array right after reset, and equal arrays are equal lists. -/

namespace Sys2Proof.Machine

/-- A table from the numbers of objects to their values (see above). -/
abbrev Table (α : Type) := List (Nat × α)

/-- The RAM buffers (R23): for each buffer, the bytes that differ from what an unwritten byte reads as, their offsets
strictly rising. -/
abbrev Memory := Table (List Host.Cell)

/-- `st.asserted[c][T]` (R27). -/
inductive Assert where
  | none | pulse | level
deriving DecidableEq, Repr

/-- The interrupt state of one CPU (R26, R27, R28). `irqEn` is indexed by the line, `asserted` by the type's number. -/
structure CpuIrq where
  irqEn : Table Bool
  asserted : Table Assert
  nmiEn : Bool
  nmiPending : Bool
deriving DecidableEq, Repr

/-- The registers of a latch handshake (R29). `pend` bit 0: pending for the secondary; bit 1: for the primary. -/
structure HsRegs where
  cmd : Byte
  res : Byte
  pend : BitVec 2
deriving DecidableEq, Repr

/-- The registers of a microcontroller link (R30, R31). -/
structure LinkRegs where
  fromMain : Byte
  fromMcu : Byte
  mainSent : Bool
  mcuSent : Bool
  latchA : Byte
  latchB : Byte
  ddrA : Byte
  ddrB : Byte
  portAIn : Byte
deriving DecidableEq, Repr

/-- The video register set of a layer (R32). -/
structure VregRegs where
  scrollXlo : Byte
  scrollXhi : Byte
  scrollY : Byte
  vbank : Byte
  vctrl : Byte
deriving DecidableEq, Repr

/-- `st.phase` (R35). -/
inductive Phase where
  | setup | running | configError
deriving DecidableEq, Repr

/-- Where the current slice of R311 stands: before its opening query; open, with no early query admitted; after a
transaction, where one early query is admitted (R169). The model's own field (log entry 6). -/
inductive SlicePos where
  | start | ready | afterTxn
deriving DecidableEq, Repr

/-- A colour of `st.out` (R36, R267): red, green, blue. -/
structure Colour where
  r : Nat
  g : Nat
  b : Nat
deriving DecidableEq, Repr

/-- What `TILE.RESOLVE` returns (R254). -/
structure TileInfo where
  tile : Nat
  color : Nat
  flipX : Bool
  flipY : Bool
deriving DecidableEq, Repr

/-- The check codes of R300. -/
inductive CheckCode where
  | tag | direction | role | range | overlap | bounds | bank | shared | param
deriving DecidableEq, Repr

/-- The parameters of R7, as check 9 names them (R305). -/
inductive Param where
  | nCpu | addrBits | readMap | writeMap | shared | slices | queryPeriod | intTypes | intPriority | polled | irqenBit
  | nmienBit | handshakes | mcuLinks | soundDevices | layers | vregLayout | vctrlIrq | flipSourceLayer | flipscreenBit
  | sprites | palette | drawOrder
deriving DecidableEq, Repr

/-- The failing object of a configuration error (R305). -/
inductive ErrObject where
  | entry (cpu : Nat) (dir : Dir) (start stop : Nat)
  | bank (k : Nat)
  | param (p : Param)
deriving DecidableEq, Repr

/-- The configuration error record (R42, R305). -/
structure ConfigError where
  code : CheckCode
  object : ErrObject
deriving DecidableEq, Repr

/-- What leaves the block: the observation of R318 and the values that the internal operations return. The model's
own record (log entry 7). -/
inductive Obs where
  /-- A read transaction of CPU c returned v (R318). -/
  | read (c : Nat) (v : Byte)
  /-- A query of CPU c returned a type, `deliver(c, T)`, or none, "no interrupt" (R160, R167; log entry 15). -/
  | interrupt (c : Nat) (t : Option IntType)
  /-- `SoundWrite(s, off, d)` (R140). -/
  | soundWrite (dev off : Nat) (d : Byte)
  /-- A completed frame, `st.out` (R252). -/
  | frame (out : List (List Colour))
  /-- `TILE.RESOLVE` returned (R254). -/
  | tile (t : TileInfo)
  /-- `SPRITE.DECODE` returned a sprite, or skip (R261). -/
  | sprite (s : Option SpriteRec)
  /-- `PALETTE.RESOLVE` returned (R267). -/
  | colours (out : List (List Colour))
deriving DecidableEq, Repr

/-- The state of the block. -/
structure State where
  /-- The configuration (R7, R20): no step writes it (log entry 1). -/
  cfg : Config
  /-- `st.mem` (R23). -/
  mem : Memory
  /-- `st.bank` (R24). -/
  bank : Table Nat
  /-- `st.irqEn`, `st.asserted`, `st.nmiEn`, `st.nmiPending` of each CPU (R26 to R28). -/
  irq : Table CpuIrq
  /-- `st.cmd`, `st.res`, `st.pend` of each handshake (R29). -/
  hs : Table HsRegs
  /-- The registers of each microcontroller link (R30, R31). -/
  link : Table LinkRegs
  /-- The video register set of each layer (R32). -/
  vreg : Table VregRegs
  /-- `st.dirty` (R33). -/
  dirty : Table Bool
  /-- `st.frame` (R35). -/
  frame : Nat
  /-- `st.round` (R35). -/
  round : Nat
  /-- `st.turn` (R35). -/
  turn : Nat
  /-- `st.phase` (R35). -/
  phase : Phase
  /-- `st.yieldReq` (R35). -/
  yieldReq : Bool
  /-- `st.fb` (R36), the rows from the top, each from the left; a pixel it does not hold is a free value. -/
  fb : List (List Nat)
  /-- `st.out` (R36). -/
  out : Option (List (List Colour))
  /-- `st.error` (R42). -/
  error : Option ConfigError
  /-- The model's own: the position inside the current slice (log entry 6). -/
  slicePos : SlicePos
  /-- The model's own: how many draws have been made (log entry 5). -/
  draws : Nat
  /-- The model's own: the environment's script, the lines still to come (R102, R103; log entries 6 and 20). -/
  input : List ScriptLine
  /-- The model's own: an operation word that the next step runs (log entry 4). -/
  slot : Option (List Byte)
  /-- The model's own: the observation, the newest event first (log entry 7). -/
  trace : List Obs
deriving DecidableEq, Repr

/-- The reasons a step faults. -/
inductive Fault where
  /-- Raised by a memory operation whose operands name a byte outside its buffer, which R9 says does not exist
  (`off < size(b)`). Only an operation word or a configuration that fails the check can ask for it. Safe: the spec
  gives such an access no effect. -/
  | noSuchByte
deriving DecidableEq, Repr

/-- The reasons a step is refused. -/
inductive Refusal where
  /-- Raised by exec's arm of an instruction without a meaning. Safe. -/
  | notModelled (mnemonic : String)
  /-- Raised by every step while `st.phase = CONFIG_ERROR`: R300 enables none. Safe: the spec's own refusal (R320). -/
  | configError
  /-- Raised for an operation that the phase or the scheduler position does not enable (R300, R310, R311). Safe. -/
  | notEnabled
  /-- Raised for a script line that R102 or R311 makes invalid (I10). Safe: the spec's own treatment is to refuse. -/
  | scriptInvalid
  /-- Raised for a transaction whose address lies outside the CPU's space, never presented to the block (R62). Safe. -/
  | outsideSpace
  /-- Raised for a key that R92 reserves: no operation. Safe. -/
  | reservedKey
  /-- Raised for an operation whose operands name a CPU, line, type, bank, region, handshake, link, device or layer
  that the configuration does not have. Safe: the spec gives it no effect. -/
  | noSuchObject
deriving DecidableEq, Repr

/-- The interrupt state of a CPU after reset (R330): disabled, nothing asserted, nothing pending. -/
def CpuIrq.reset : CpuIrq := ⟨[], [], false, false⟩

/-- A handshake after reset (R330). -/
def HsRegs.reset : HsRegs := ⟨0, 0, 0⟩

/-- A microcontroller link after reset (R330). -/
def LinkRegs.reset : LinkRegs := ⟨0, 0, false, false, 0, 0, 0, 0, 0⟩

/-- A layer's video registers after reset (R330). -/
def VregRegs.reset : VregRegs := ⟨0, 0, 0, 0, 0⟩

/-- The machine right after RESET (R330), under the configuration TC1 (log entry 1). -/
def State.reset : State where
  cfg := Tc1.config
  mem := []
  bank := []
  irq := []
  hs := []
  link := []
  vreg := []
  dirty := []
  frame := 0
  round := 0
  turn := 0
  phase := .setup
  yieldReq := false
  fb := []
  out := none
  error := none
  slicePos := .start
  draws := 0
  input := []
  slot := none
  trace := []

end Sys2Proof.Machine
end

