-- ==== Sys2Proof/Machine/Sparse.lean ====
section
/-! DEFINITION. Sparse tables: reading, writing and the canonical form. A table lists the objects whose value differs
from a default `dflt`, their numbers strictly rising; an unlisted object reads as the default. Memory and every
register array of State are such tables, and their default is the value right after reset. -/

namespace Sys2Proof.Machine.Sparse

variable {α : Type}

/-- The value of object k. -/
def get (dflt : Nat → α) : Table α → Nat → α
  | [], k => dflt k
  | (k', v) :: rest, k => if k = k' then v else get dflt rest k

/-- The table without object k. -/
def erase : Table α → Nat → Table α
  | [], _ => []
  | (k', v) :: rest, k => if k = k' then erase rest k else (k', v) :: erase rest k

/-- The table with object k, which it does not list, put in at its place. -/
def insert : Table α → Nat → α → Table α
  | [], k, v => [(k, v)]
  | (k', v') :: rest, k, v => if k < k' then (k, v) :: (k', v') :: rest else (k', v') :: insert rest k v

/-- The table after object k is set to v: a default value is not listed. -/
def set [DecidableEq α] (dflt : Nat → α) (l : Table α) (k : Nat) (v : α) : Table α :=
  if v = dflt k then erase l k else insert (erase l k) k v

/-- Every number of the table is above k. -/
def above (k : Nat) (l : Table α) : Bool := l.all (fun p => k < p.1)

/-- The numbers of the table are strictly rising. -/
def rising : Table α → Bool
  | [] => true
  | p :: rest => above p.1 rest && rising rest

/-- The canonical form: the numbers strictly rising and no entry equal to the default. -/
def wf [DecidableEq α] (dflt : Nat → α) (l : Table α) : Bool :=
  rising l && l.all (fun p => decide (p.2 ≠ dflt p.1))

end Sys2Proof.Machine.Sparse
end

