-- ==== Sys2Proof/Machine/Operands.lean ====
section
/-! DEFINITION. Operand forms: configured functions, buffer images, window offsets, tile cells, scroll values, sprite
fields, the index clamp. -/

namespace Sys2Proof

/-- The value of a configured function on its arguments; `rd` reads the context's buffer. -/
def Formula.eval (rd : Nat → Byte) (args : List Nat) : Formula → Nat
  | .arg i => (args[i]?).getD 0
  | .const n => n
  | .byte off => (rd (off.eval rd args)).toNat
  | .add a b => a.eval rd args + b.eval rd args
  | .sub a b => a.eval rd args - b.eval rd args
  | .mul a b => a.eval rd args * b.eval rd args
  | .div a b => a.eval rd args / b.eval rd args
  | .mod a b => a.eval rd args % b.eval rd args
  | .band a b => a.eval rd args &&& b.eval rd args
  | .bor a b => a.eval rd args ||| b.eval rd args
  | .bxor a b => a.eval rd args ^^^ b.eval rd args
  | .shl a b => a.eval rd args <<< b.eval rd args
  | .shr a b => a.eval rd args >>> b.eval rd args
  | .cond c t e => if c.eval rd args = 0 then e.eval rd args else t.eval rd args
  | .table l i => (l[i.eval rd args]?).getD 0

/-- A configured function that reads no buffer. -/
def Formula.apply (f : Formula) (args : List Nat) : Nat := f.eval (fun _ => 0) args

/-- The offsets of the context's buffer that a configured function reads on its arguments. -/
def Formula.reads (rd : Nat → Byte) (args : List Nat) : Formula → List Nat
  | .arg _ => []
  | .const _ => []
  | .byte off => off.eval rd args :: off.reads rd args
  | .add a b => a.reads rd args ++ b.reads rd args
  | .sub a b => a.reads rd args ++ b.reads rd args
  | .mul a b => a.reads rd args ++ b.reads rd args
  | .div a b => a.reads rd args ++ b.reads rd args
  | .mod a b => a.reads rd args ++ b.reads rd args
  | .band a b => a.reads rd args ++ b.reads rd args
  | .bor a b => a.reads rd args ++ b.reads rd args
  | .bxor a b => a.reads rd args ++ b.reads rd args
  | .shl a b => a.reads rd args ++ b.reads rd args
  | .shr a b => a.reads rd args ++ b.reads rd args
  | .cond c t e => c.reads rd args ++ (if c.eval rd args = 0 then e.reads rd args else t.reads rd args)
  | .table _ i => i.reads rd args

/-! ### Buffers (R7, R9, R23) -/

/-- Byte i of a buffer's image: `init(b)[i]` of a ROM buffer, `INIT_RAM(b, i)` of a RAM buffer. -/
def BufferCfg.imageByte (b : BufferCfg) (i : Nat) : Byte := BitVec.ofNat 8 (b.image.apply [i])

/-- What an unwritten byte of buffer b reads as: the buffer's image. The one definition of what a byte that no write
has reached holds (R23, R125). -/
def Config.unwritten (cfg : Config) (b off : Nat) : Byte :=
  match cfg.buffers[b]? with
  | some buf => buf.imageByte off
  | none => 0

/-- Buffer b exists and has a byte at the offset (R9: `off < size(b)`). -/
def Config.hasByte (cfg : Config) (b off : Nat) : Bool :=
  match cfg.buffers[b]? with
  | some buf => off < buf.size
  | none => false

/-- Buffer b is of kind RAM. -/
def Config.isRam (cfg : Config) (b : Nat) : Bool :=
  match cfg.buffers[b]? with
  | some buf => decide (buf.kind = .ram)
  | none => false

/-- The CPU exists. -/
def Config.hasCpu (cfg : Config) (c : Nat) : Bool := c < cfg.cpus.length

/-- The CPU exists and has the polled line (R26). -/
def Config.hasLine (cfg : Config) (c line : Nat) : Bool :=
  match cfg.cpus[c]? with
  | some cpu => cpu.polled.any (fun p => p.1 == line)
  | none => false

/-- The interrupt type is one of `INT_TYPES`. -/
def Config.hasType (cfg : Config) (t : IntType) : Bool := cfg.intTypes.any (fun t' => t' == t)

/-- The layer exists. -/
def Config.hasLayer (cfg : Config) (l : Nat) : Bool := l < cfg.layers.length

/-- The numbers of the layers whose tile RAM is buffer b. -/
def Config.layersOn (cfg : Config) (b : Nat) : List Nat :=
  (List.range cfg.layers.length).filter fun l =>
    match cfg.layers[l]? with
    | some layer => layer.tileRam == b
    | none => false

/-- The offset that a banked window reaches: `bankBase(k) + index * bankSize(k) + off` (R76, R129). -/
def BankCfg.offset (k : BankCfg) (index off : Nat) : Nat := k.bankBase + index * k.bankSize + off

/-! ### The compositor's operand forms -/

/-- `clampIdx(n, count) = min(n, count - 1)` (R270). -/
def clampIdx (n count : Nat) : Nat := min n (count - 1)

/-- Scroll X of a layer (R99). -/
def scrollX (layer : LayerCfg) (v : Machine.VregRegs) : Nat :=
  if layer.scrollxBits = 9 then v.scrollXlo.toNat ||| bitVal (bitOf v.scrollXhi layer.scrollxHiBit) <<< 8
  else v.scrollXlo.toNat

/-- The cell of a layer pixel (R253, R258): `(ly div TILE_H) * COLS + (lx div TILE_W)`. -/
def cellOf (layer : LayerCfg) (lx ly : Nat) : Nat := ly / layer.tileH * layer.cols + lx / layer.tileW

/-- A bit field of a sprite entry whose byte k is `rd k` (R260). -/
def SpriteField.value (f : SpriteField) (rd : Nat → Byte) : Nat := (rd f.byte).toNat >>> f.lo % 2 ^ f.width

/-- A one-bit field (log entry 17). -/
def SpriteField.flag (f : SpriteField) (rd : Nat → Byte) : Bool := f.value rd % 2 == 1

/-- Columns and rows of sub-tiles of a size class (R263). -/
def sizeCols (size : Fin 4) : Nat := if size.val / 2 = 1 then 2 else 1

/-- See `sizeCols`. -/
def sizeRows (size : Fin 4) : Nat := if size.val % 2 = 1 then 2 else 1

/-- `SUBTILE_OFF[size][j][i]`, row-major by default (R260). -/
def SpriteCfg.subtile (sp : SpriteCfg) (size : Fin 4) (j i : Nat) : Nat :=
  (((sp.subtileOff[size.val]?.getD [])[j]?.getD [])[i]?).getD (j * sizeCols size + i)

/-- `FLIP_CORR[size]`, (0, 0) by default (R260). -/
def SpriteCfg.corr (sp : SpriteCfg) (size : Fin 4) : Int × Int := (sp.flipCorr[size.val]?).getD (0, 0)

/-- The sprite's position and flips under screen flip (`SCREENFLIP`, R265). -/
def screenFlip (sp : SpriteCfg) (s : SpriteRec) : Int × Int × Bool × Bool :=
  (sp.flipMaxX - s.x + (sp.corr s.size).1, sp.flipMaxY - (s.y : Int) + (sp.corr s.size).2, !s.flipX, !s.flipY)

/-- A list `[f k, f (k+1), …]` of n entries. -/
def tabulate {α : Type} (f : Nat → α) : Nat → Nat → List α
  | _, 0 => []
  | k, n + 1 => f k :: tabulate f (k + 1) n

end Sys2Proof
end

