-- ==== Sys2Proof/Machine/Flags.lean ====
section
/-! DEFINITION. Flag and status computations: the assertion order, the handshake's pending bits and status byte, the
MCU status byte, port pins, port edges. -/

namespace Sys2Proof.Machine

/-- The mode as a held assertion. -/
def Assert.ofMode : AssertMode → Assert
  | .pulse => .pulse
  | .level => .level

/-- `max` in the order NONE < PULSE < LEVEL (R163). -/
def Assert.max : Assert → Assert → Assert
  | .level, _ => .level
  | _, .level => .level
  | .pulse, _ => .pulse
  | _, .pulse => .pulse
  | .none, .none => .none

/-- The pending bits after one of them is written (R190 to R193). -/
def withPend (p : BitVec 2) (i : Nat) (v : Bool) : BitVec 2 :=
  if v then p ||| BitVec.ofNat 2 (1 <<< i) else p &&& ~~~(BitVec.ofNat 2 (1 <<< i))

/-- The handshake status byte (R94, R194): bit 0 pending for the secondary, bit 1 for the primary, bits 7..2 zero, the
whole XORed with `INVERT_MASK(h)`. -/
def hsStatus (pend : BitVec 2) (invertMask : Byte) : Byte := pend.setWidth 8 ^^^ invertMask

/-- The MCU status byte (R95, R202). -/
def mcuStatus (l : LinkCfg) (mainSent mcuSent : Bool) : Byte :=
  (BitVec.ofNat 8 (bitVal (!mainSent) <<< l.statusReadyBit) |||
    BitVec.ofNat 8 (bitVal mcuSent <<< l.statusResultBit)) ^^^ l.statusInvert

/-- What a port read returns: latch bits where the DDR is 1, input bits where it is 0 (R96, R205). -/
def portPins (latch ddr input : Byte) : Byte := (latch &&& ddr) ||| (input &&& ~~~ddr)

/-- The latch after a port write: only bits with the DDR set take the byte (R204, R209). R338 says in passing that a
toggle of a bit whose DDR bit is 0 "changes the latch"; DEDUCED: R204's rule and the vectors stand (log entry 22). -/
def portLatch (latch ddr d : Byte) : Byte := (latch &&& ~~~ddr) ||| (d &&& ddr)

end Sys2Proof.Machine

namespace Sys2Proof

/-- The trigger fires between two gated outputs (R204). -/
def Trigger.fires (t : Trigger) (old new : Byte) : Bool :=
  match t.edge with
  | .falling => bitOf old t.bit && !bitOf new t.bit
  | .rising => !bitOf old t.bit && bitOf new t.bit

end Sys2Proof
end

