-- ==== Sys2Proof/Machine/Ops.lean ====
section
/-! DEFINITION. The named operations over memory and registers, each from its rule; and the interrupt operations that
other rules perform as side effects. TAKING AN INTERRUPT is `State.query` (R167): all the block does at an interrupt's
entry (R307: it clears a delivered PULSE, saves nothing, changes no mask and records no vector). The block has no
return-from-interrupt operation (R308): what ends a condition are `State.clearLine` and the enable writes. -/

namespace Sys2Proof.Machine

/-- The answer of a meaning: the next state where the operands name objects the configuration has. -/
def Outcome.whenObject (ok : Bool) (t : State) : Host.Outcome State Fault Refusal :=
  if ok then .next t else .refused .noSuchObject

/-- The answer of a memory meaning: the next state where the byte exists (R9). -/
def Outcome.whenByte (ok : Bool) (t : State) : Host.Outcome State Fault Refusal :=
  if ok then .next t else .fault .noSuchByte

/-! ### Memory (R9, R23, R124) -/

/-- The bytes of buffer b that differ from the unwritten ones. -/
def State.cells (s : State) (b : Nat) : List Host.Cell := Sparse.get (fun _ => []) s.mem b

/-- `MemRead(b, off)` (R9, R23): the image byte of a ROM buffer; the last byte written, else the unwritten one, of a
RAM buffer. Outside a buffer, a free value (log entry 8). -/
def State.memRead (s : State) (b off : Nat) : Byte :=
  if s.cfg.hasByte b off then
    if s.cfg.isRam b then Sparse.get (s.cfg.unwritten b) (s.cells b) off else s.cfg.unwritten b off
  else Config.absentByte b off

/-- `MemWrite(b, off, v)` (R9): sets a byte of a RAM buffer. No rule writes a ROM buffer (R23, R128), and there is
nothing to write outside a buffer. -/
def State.memWrite (s : State) (b off : Nat) (v : Byte) : State :=
  if s.cfg.hasByte b off && s.cfg.isRam b then
    { s with mem := Sparse.set (fun _ => []) s.mem b (Sparse.set (s.cfg.unwritten b) (s.cells b) off v) }
  else s

/-- The canonical form of memory: for each buffer listed, a RAM buffer of the configuration, the offsets inside it
strictly rising and no byte equal to the unwritten one; no buffer listed without a byte. -/
def Memory.wf (cfg : Config) (m : Memory) : Bool :=
  Sparse.wf (fun _ => []) m &&
    m.all (fun p => cfg.isRam p.1 && Sparse.wf (cfg.unwritten p.1) p.2 && p.2.all (fun c => cfg.hasByte p.1 c.1))

/-! ### Register arrays -/

/-- `st.bank[k]` (R24). -/
def State.bankIdx (s : State) (k : Nat) : Nat := Sparse.get (fun _ => 0) s.bank k

/-- Writes `st.bank[k]`. -/
def State.setBank (s : State) (k v : Nat) : State := { s with bank := Sparse.set (fun _ => 0) s.bank k v }

/-- The interrupt state of CPU c (R26 to R28). -/
def State.irqOf (s : State) (c : Nat) : CpuIrq := Sparse.get (fun _ => CpuIrq.reset) s.irq c

/-- Writes the interrupt state of CPU c. -/
def State.setIrq (s : State) (c : Nat) (v : CpuIrq) : State :=
  { s with irq := Sparse.set (fun _ => CpuIrq.reset) s.irq c v }

/-- `st.irqEn[c][line]` (R26). -/
def State.irqEn (s : State) (c line : Nat) : Bool := Sparse.get (fun _ => false) (s.irqOf c).irqEn line

/-- Writes `st.irqEn[c][line]`. -/
def State.setIrqEn (s : State) (c line : Nat) (v : Bool) : State :=
  s.setIrq c { s.irqOf c with irqEn := Sparse.set (fun _ => false) (s.irqOf c).irqEn line v }

/-- `st.asserted[c][T]` (R27). -/
def State.asserted (s : State) (c : Nat) (t : IntType) : Assert :=
  Sparse.get (fun _ => Assert.none) (s.irqOf c).asserted t.code

/-- Writes `st.asserted[c][T]`. -/
def State.setAsserted (s : State) (c : Nat) (t : IntType) (v : Assert) : State :=
  s.setIrq c { s.irqOf c with asserted := Sparse.set (fun _ => Assert.none) (s.irqOf c).asserted t.code v }

/-- `st.nmiEn[c]` (R28). -/
def State.nmiEn (s : State) (c : Nat) : Bool := (s.irqOf c).nmiEn

/-- Writes `st.nmiEn[c]`. -/
def State.setNmiEn (s : State) (c : Nat) (v : Bool) : State := s.setIrq c { s.irqOf c with nmiEn := v }

/-- `st.nmiPending[c]` (R28). -/
def State.nmiPending (s : State) (c : Nat) : Bool := (s.irqOf c).nmiPending

/-- Writes `st.nmiPending[c]`. -/
def State.setNmiPending (s : State) (c : Nat) (v : Bool) : State := s.setIrq c { s.irqOf c with nmiPending := v }

/-- The registers of handshake h (R29). -/
def State.hsOf (s : State) (h : Nat) : HsRegs := Sparse.get (fun _ => HsRegs.reset) s.hs h

/-- Writes the registers of handshake h. -/
def State.setHs (s : State) (h : Nat) (v : HsRegs) : State := { s with hs := Sparse.set (fun _ => HsRegs.reset) s.hs h v }

/-- The registers of link m (R30, R31). -/
def State.linkOf (s : State) (m : Nat) : LinkRegs := Sparse.get (fun _ => LinkRegs.reset) s.link m

/-- Writes the registers of link m. -/
def State.setLink (s : State) (m : Nat) (v : LinkRegs) : State :=
  { s with link := Sparse.set (fun _ => LinkRegs.reset) s.link m v }

/-- The latch of a port. -/
def LinkRegs.latch (l : LinkRegs) : Port → Byte
  | .a => l.latchA
  | .b => l.latchB

/-- The DDR of a port. -/
def LinkRegs.ddr (l : LinkRegs) : Port → Byte
  | .a => l.ddrA
  | .b => l.ddrB

/-- The registers with a port's latch written. -/
def LinkRegs.withLatch (l : LinkRegs) (p : Port) (v : Byte) : LinkRegs :=
  match p with
  | .a => { l with latchA := v }
  | .b => { l with latchB := v }

/-- The registers with a port's DDR written. -/
def LinkRegs.withDdr (l : LinkRegs) (p : Port) (v : Byte) : LinkRegs :=
  match p with
  | .a => { l with ddrA := v }
  | .b => { l with ddrB := v }

/-- The video register set of layer l (R32). -/
def State.vregOf (s : State) (l : Nat) : VregRegs := Sparse.get (fun _ => VregRegs.reset) s.vreg l

/-- Writes the video register set of layer l. -/
def State.setVreg (s : State) (l : Nat) (v : VregRegs) : State :=
  { s with vreg := Sparse.set (fun _ => VregRegs.reset) s.vreg l v }

/-- `st.dirty[l]` (R33), 1 after reset. -/
def State.dirtyOf (s : State) (l : Nat) : Bool := Sparse.get (fun _ => true) s.dirty l

/-- Writes `st.dirty[l]`. -/
def State.setDirty (s : State) (l : Nat) (v : Bool) : State :=
  { s with dirty := Sparse.set (fun _ => true) s.dirty l v }

/-- Records an event of the observation (R318; log entry 7). -/
def State.emit (s : State) (o : Obs) : State := { s with trace := o :: s.trace }

/-- One draw has been made (log entry 5). -/
def State.drawn (s : State) : State := { s with draws := s.draws + 1 }

/-! ### Tile RAM and the dirty flags (R33, R75, R126, R237) -/

/-- Sets `st.dirty` of every listed layer. -/
def State.setDirtyAll (s : State) (ls : List Nat) (v : Bool) : State := ls.foldl (fun s l => s.setDirty l v) s

/-- `if b is the tile RAM of some layer l: st.dirty[l] <- 1` (R126). -/
def State.markDirty (s : State) (b : Nat) : State := s.setDirtyAll (s.cfg.layersOn b) true

/-- A store by a transaction, whichever rule stores (R126, R130, R134, R238): a write to a layer's tile RAM sets the
layer's dirty flag (R33, R75, R237), the byte already held or not (log entry 10). -/
def State.storeByte (s : State) (b off : Nat) (v : Byte) : State := (s.memWrite b off v).markDirty b

/-! ### Interrupts (R163 to R168) -/

/-- `INT.ASSERT(c, T, mode)` (R163). -/
def State.assertLine (s : State) (c : Nat) (t : IntType) (mode : AssertMode) : State :=
  s.setAsserted c t (Assert.max (s.asserted c t) (Assert.ofMode mode))

/-- `INT.CLEAR(c, T)` (R164). -/
def State.clearLine (s : State) (c : Nat) (t : IntType) : State := s.setAsserted c t .none

/-- `NMI.TRIGGER(c)` (R165). -/
def State.triggerNmi (s : State) (c : Nat) : State :=
  if s.nmiEn c then s.assertLine c .nmi .pulse else s.setNmiPending c true

/-- An optional `INT.ASSERT` of a configuration. -/
def State.assertOpt (s : State) : Option LineAssert → State
  | some a => s.assertLine a.cpu a.type a.mode
  | none => s

/-- An optional `INT.CLEAR` of a configuration. -/
def State.clearOpt (s : State) : Option LineRef → State
  | some r => s.clearLine r.cpu r.type
  | none => s

/-- Type t is a candidate of a query of CPU c (R167): an enabled polled line offers it, or it is asserted. An early
query sees asserted lines only (R169). -/
def State.candidate (s : State) (c : Nat) (early : Bool) (t : IntType) : Bool :=
  (!early && (match s.cfg.cpus[c]? with
    | some cpu => cpu.polled.any (fun p => p.2 == t && s.irqEn c p.1)
    | none => false)) || decide (s.asserted c t ≠ .none)

/-- `T*`: the greatest candidate under `INT_PRIORITY` (R167, R168). -/
def State.pickInterrupt (s : State) (c : Nat) (early : Bool) : Option IntType :=
  s.cfg.intPriority.find? (s.candidate c early)

/-- `INT.QUERY(c)` (R167): delivers the greatest candidate, if any; a delivered PULSE is cleared. -/
def State.query (s : State) (c : Nat) (early : Bool) : State :=
  match s.pickInterrupt c early with
  | none => s.emit (.interrupt c none)
  | some t =>
    (if s.asserted c t = .pulse then s.setAsserted c t .none else s).emit (.interrupt c (some t))

/-! ### Video registers (R231 to R235) -/

/-- R231. -/
def State.writeScrollxLo (s : State) (l : Nat) (d : Byte) : State := s.setVreg l { s.vregOf l with scrollXlo := d }

/-- R232. -/
def State.writeScrollxHi (s : State) (l : Nat) (d : Byte) : State := s.setVreg l { s.vregOf l with scrollXhi := d }

/-- R233. -/
def State.writeScrolly (s : State) (l : Nat) (d : Byte) : State := s.setVreg l { s.vregOf l with scrollY := d }

/-- R234: every write marks the layer dirty. -/
def State.writeVbank (s : State) (l : Nat) (d : Byte) : State :=
  (s.setVreg l { s.vregOf l with vbank := d }).setDirty l true

/-- R235: the byte is stored, and the layer's interrupt-enable bit, where it carries one, is written. -/
def State.writeVctrl (s : State) (l : Nat) (d : Byte) : State :=
  let t := s.setVreg l { s.vregOf l with vctrl := d }
  match s.cfg.layers[l]?.bind (·.vctrlIrq) with
  | some v => t.setIrqEn v.cpu v.line (bitOf d v.bit)
  | none => t

/-! ### Port actions (R207, R208) -/

/-- `ACT.LATCH_FROM_MAIN(m)` (R207). -/
def State.latchFromMain (s : State) (m : Nat) : State :=
  let l := s.linkOf m
  (s.setLink m { l with portAIn := l.fromMain, mainSent := false }).clearOpt (s.cfg.links[m]?.bind (·.latchClear))

/-- `ACT.SEND_TO_MAIN(m)` (R208): the byte sent is what port A's pins read. -/
def State.sendToMain (s : State) (m : Nat) : State :=
  let l := s.linkOf m
  (s.setLink m { l with fromMcu := portPins l.latchA l.ddrA l.portAIn, mcuSent := true }).assertOpt
    (s.cfg.links[m]?.bind (·.sendAssert))

/-- One action of a trigger (R206). -/
def State.portAction (s : State) (m : Nat) : PortAction → State
  | .latchFromMain => s.latchFromMain m
  | .sendToMain => s.sendToMain m

end Sys2Proof.Machine
end

