-- ==== Sys2Proof/Machine/Compositor.lean ====
section
/-! DEFINITION. The tilemap and sprite compositor, 44_compositor.md, pixel by pixel. -/

namespace Sys2Proof.Machine

/-! ### The frame buffer (R36, R250, R266) -/

/-- Pixel (x, y) of a frame buffer; a free value where the buffer holds none (R36, R330: before the first drawing). -/
def pixelAt (fb : List (List Nat)) (x y : Nat) : Nat := ((fb[y]?.bind (·[x]?))).getD (Config.freePixel x y)

/-- The frame buffer with every pixel of the screen drawn from f, which answers `none` where it leaves the pixel. -/
def paint (cfg : Config) (fb : List (List Nat)) (f : Nat → Nat → Option Nat) : List (List Nat) :=
  tabulate (fun y => tabulate (fun x => (f x y).getD (pixelAt fb x y)) 0 cfg.screenW) 0 cfg.screenH

/-- `fill(fb, p)` (R250, R271). -/
def fillScreen (cfg : Config) (p : Nat) : List (List Nat) :=
  List.replicate cfg.screenH (List.replicate cfg.screenW p)

/-- The palette index a pen gives a pixel, or `none` where the pen is transparent (R266). -/
def pixelIndex (cfg : Config) (pen base color : Nat) (mode : Transp) : Option Nat :=
  if mode = .pen pen then none
  else some (clampIdx (base + color * cfg.palette.pensPerColor + pen) cfg.palette.paletteSize)

/-- `putPixel` (R266): off the screen the pixel is dropped; a transparent pen leaves it. -/
def putPixel (cfg : Config) (fb : List (List Nat)) (x y : Int) (pen base color : Nat) (mode : Transp) :
    List (List Nat) :=
  if x < 0 ∨ (cfg.screenW : Int) ≤ x ∨ y < 0 ∨ (cfg.screenH : Int) ≤ y then fb
  else match pixelIndex cfg pen base color mode with
    | some p => fb.modify y.toNat (fun row => row.set x.toNat p)
    | none => fb

/-! ### Tiles and layers (R253 to R259) -/

/-- `TILE.RESOLVE(l, cell)` (R254) for the record of layer l. -/
def State.tileInfo (s : State) (l : Nat) (layer : LayerCfg) (cell : Nat) : TileInfo :=
  let attr := (s.memRead layer.tileRam (layer.cellAttrAddr.apply [cell])).toNat
  let idx := (s.memRead layer.tileRam (layer.cellCodeAddr.apply [cell])).toNat
  let bank := layer.bankFn.apply [attr, (s.vregOf l).vbank.toNat]
  { tile := clampIdx (idx + 256 * bank) layer.numTiles
    color := layer.colorFn.apply [attr]
    flipX := layer.flipxFn.apply [attr] == 1
    flipY := layer.flipyFn.apply [attr] == 1 }

/-- The palette index that layer l gives screen pixel (sx, sy), or `none` where it is transparent (R258, R259). -/
def State.layerPixel (s : State) (l : Nat) (layer : LayerCfg) (fs : Bool) (sx sy : Nat) : Option Nat :=
  let ex := if fs then s.cfg.screenW - 1 - sx else sx
  let ey := if fs then s.cfg.screenH - 1 - sy else sy
  let lx := (ex + scrollX layer (s.vregOf l)) % (layer.cols * layer.tileW)
  let ly := (ey + (s.vregOf l).scrollY.toNat) % (layer.rows * layer.tileH)
  let t := s.tileInfo l layer (cellOf layer lx ly)
  let u := if t.flipX then layer.tileW - 1 - lx % layer.tileW else lx % layer.tileW
  let v := if t.flipY then layer.tileH - 1 - ly % layer.tileH else ly % layer.tileH
  pixelIndex s.cfg (s.cfg.gfx.apply [layer.gfxSet, t.tile, u, v]) layer.colorBase t.color layer.transp

/-- `LAYER.DRAW(l, fs)` (R258): every pixel of the screen once. -/
def State.drawLayer (s : State) (l : Nat) (fs : Bool) : State :=
  match s.cfg.layers[l]? with
  | some layer => { s with fb := paint s.cfg s.fb (s.layerPixel l layer fs) }
  | none => s

/-! ### Sprites (R261 to R265) -/

/-- `SPRITE.DECODE(i)` (R261, R262); `none` is skip. -/
def State.decodeSprite (s : State) (i : Nat) : Option SpriteRec :=
  let sp := s.cfg.sprites
  let lay := sp.layout
  let rd := fun k => s.memRead sp.sprRam (sp.sprBase + i * sp.stride + k)
  let y := lay.y.value rd
  if sp.offscreenY = some y then none
  else
    let hi := match lay.codeHi with
      | some f => f.value rd
      | none => 0
    let ext := match lay.xExt with
      | some f => f.value rd
      | none => 0
    let xByte := lay.xByte.value rd
    some
      { code := lay.codeLo.value rd ||| hi <<< 8
        x := match s.cfg.xExtMode with
          | .ninthBit => (xByte : Int) + 256 * ext
          | .sign => (xByte : Int) - 256 * ext
        y := y
        color := lay.color.value rd
        flipX := lay.flipX.flag rd
        flipY := lay.flipY.flag rd
        size := Fin.ofNat 4 (lay.size.value rd)
        prio := match lay.prio with
          | some f => f.value rd
          | none => 0 }

/-- One sub-tile: its code and its grid position, from 0 (R264). -/
structure Subtile where
  code : Nat
  di : Nat
  dj : Nat
deriving DecidableEq, Repr

/-- The sub-tile draws of a sprite with the given flips, in raster order of the source grid (R263, R264): row j, then
column i; a flipped sprite places (i, j) at the mirrored grid position. -/
def subtiles (sp : SpriteCfg) (s : SpriteRec) (fx fy : Bool) : List Subtile :=
  (List.range (sizeRows s.size)).flatMap fun j => (List.range (sizeCols s.size)).map fun i =>
    { code := clampIdx (s.code + sp.subtile s.size j i) sp.numSpriteTiles
      di := if fx then sizeCols s.size - 1 - i else i
      dj := if fy then sizeRows s.size - 1 - j else j }

/-- The pixels of one 16×16 graphic, row v, then column u (R264). -/
def tilePixels : List (Nat × Nat) :=
  (List.range 16).flatMap fun v => (List.range 16).map fun u => (u, v)

/-- Draws one sub-tile with its top-left pixel at (X, Y) (R264, R266). -/
def drawSubtile (cfg : Config) (fb : List (List Nat)) (code : Nat) (X Y : Int) (fx fy : Bool) (color : Nat) :
    List (List Nat) :=
  tilePixels.foldl (fun fb p =>
    let pu := if fx then 15 - p.1 else p.1
    let pv := if fy then 15 - p.2 else p.2
    putPixel cfg fb (X + p.1) (Y + p.2) (cfg.gfx.apply [cfg.sprites.sprGfxSet, code, pu, pv])
      cfg.sprites.sprColorBase color (.pen cfg.sprites.sprTranspPen)) fb

/-- A sprite's position and flips as drawn (R264, R265). -/
def placeSprite (cfg : Config) (s : SpriteRec) (fs : Bool) : Int × Int × Bool × Bool :=
  if fs then screenFlip cfg.sprites s else (s.x, (s.y : Int), s.flipX, s.flipY)

/-- `SPRITE.DRAW(s, fs)` (R264) on a frame buffer that holds every pixel of the screen. -/
def drawSpriteOn (cfg : Config) (fb : List (List Nat)) (s : SpriteRec) (fs : Bool) : List (List Nat) :=
  let (X, Y, fx, fy) := placeSprite cfg s fs
  (subtiles cfg.sprites s fx fy).foldl
    (fun fb t => drawSubtile cfg fb t.code (X + 16 * t.di) (Y + 16 * t.dj) fx fy s.color) fb

/-- `SPRITE.DRAW(s, fs)` (R264), as `COMPOSE` performs it on the filled frame buffer. -/
def State.drawSprite (s : State) (r : SpriteRec) (fs : Bool) : State :=
  { s with fb := drawSpriteOn s.cfg s.fb r fs }

/-- The same pixels, with every pixel of the screen held: a pixel that nothing has drawn is a free value (log entry
18). -/
def State.holdScreen (s : State) : State := { s with fb := paint s.cfg s.fb (fun _ _ => none) }

/-! ### Palette and frame (R252, R255, R267, R269, R271) -/

/-- `PALETTE_DECODE(PALETTE.buffer, index)` (R267). -/
def State.colourOf (s : State) (index : Nat) : Colour :=
  let rd := fun off => s.memRead s.cfg.palette.buffer off
  { r := s.cfg.palette.decodeR.eval rd [index]
    g := s.cfg.palette.decodeG.eval rd [index]
    b := s.cfg.palette.decodeB.eval rd [index] }

/-- `PALETTE.RESOLVE(st.fb)` (R267): every pixel of the screen decoded. -/
def State.resolvePalette (s : State) : List (List Colour) :=
  tabulate (fun y => tabulate (fun x => s.colourOf (pixelAt s.fb x y)) 0 s.cfg.screenW) 0 s.cfg.screenH

/-- The screen-flip bit `st.vctrl[FLIP_SOURCE_LAYER][FLIPSCREEN_BIT]` (R252, R259). -/
def State.flipScreen (s : State) : Bool := bitOf (s.vregOf s.cfg.flipSourceLayer).vctrl s.cfg.flipscreenBit

/-- `prioMatch(s, p)` (R252). -/
def prioMatch (cfg : Config) (r : SpriteRec) (p : Option Nat) : Bool :=
  match cfg.sprites.layout.prio with
  | some _ => p == some r.prio
  | none => p == none

/-- One item of `DRAW_ORDER` (R252, R269). -/
def State.drawItem (s : State) (fs : Bool) : DrawItem → State
  | .layer l => s.drawLayer l fs
  | .sprites p => s.cfg.sprites.spriteOrder.foldl (fun s i =>
      match s.decodeSprite i with
      | some r => if prioMatch s.cfg r p then s.drawSprite r fs else s
      | none => s) s

/-- The frame buffer that `COMPOSE` leaves (R252): the background, then the items in order. -/
def State.drawFrame (s : State) : State :=
  s.cfg.drawOrder.foldl (fun t item => t.drawItem s.flipScreen item)
    { s with fb := fillScreen s.cfg s.cfg.palette.bgPen }

/-- `COMPOSE` (R252). -/
def State.composed (s : State) : State :=
  let t := s.drawFrame.setDirtyAll (List.range s.cfg.layers.length) false
  { t with out := some t.resolvePalette }.emit (.frame t.resolvePalette)

/-- `COMPOSE` (R252). -/
def execCompose (s : State) : Host.Outcome State Fault Refusal := .next s.composed

/-- `TILE.RESOLVE` (R254). -/
def execTileResolve (l cell : Nat) (s : State) : Host.Outcome State Fault Refusal :=
  match s.cfg.layers[l]? with
  | some layer => .next (s.emit (.tile (s.tileInfo l layer cell)))
  | none => .refused .noSuchObject

/-- `LAYER.DRAW` (R258). -/
def execLayerDraw (l : Nat) (fs : Bool) (s : State) : Host.Outcome State Fault Refusal :=
  Outcome.whenObject (s.cfg.hasLayer l) (s.drawLayer l fs)

/-- `SPRITE.DECODE` (R261). -/
def execSpriteDecode (i : Nat) (s : State) : Host.Outcome State Fault Refusal :=
  Outcome.whenObject (i < s.cfg.sprites.count) (s.emit (.sprite (s.decodeSprite i)))

/-- `SPRITE.DRAW` (R264). -/
def execSpriteDraw (r : SpriteRec) (fs : Bool) (s : State) : Host.Outcome State Fault Refusal :=
  .next (s.holdScreen.drawSprite r fs)

/-- `PALETTE.RESOLVE` (R267): returns the colours. -/
def execPaletteResolve (s : State) : Host.Outcome State Fault Refusal := .next (s.emit (.colours s.resolvePalette))

end Sys2Proof.Machine
end

