-- ==== Sys2Proof/Machine/Setup.lean ====
section
/-! DEFINITION. RESET (70_reset_and_hazards.md R330) and CONFIG.CHECK (60_exceptions.md R300, R305). -/

namespace Sys2Proof.Machine

/-- `RESET` (R330): every register at its reset value (an empty table, see State.lean), RAM at `INIT_RAM`. The
configuration, and the model's own script, draw counter and trace, stay (log entry 13). -/
def State.resetBlock (s : State) : State :=
  { s with
    mem := [], bank := [], irq := [], hs := [], link := [], vreg := [], dirty := []
    frame := 0, round := 0, turn := 0, phase := .setup, yieldReq := false
    fb := [], out := none, error := none, slicePos := .start }

/-- `RESET` (R330). -/
def execReset (s : State) : Host.Outcome State Fault Refusal := .next s.resetBlock

/-! ### The configuration check -/

/-- A map entry with its place. -/
structure Located where
  cpu : Nat
  dir : Dir
  entry : Entry
deriving DecidableEq, Repr

/-- The entries in configuration order: CPU by CPU, the read map before the write map (log entry 9). -/
def Located.all (cfg : Config) : List Located :=
  (List.range cfg.cpus.length).flatMap fun c =>
    (cfg.map c .read).map (fun e => ⟨c, .read, e⟩) ++ (cfg.map c .write).map (fun e => ⟨c, .write, e⟩)

/-- The entry as a failing object (R305). -/
def Located.object (e : Located) : ErrObject := .entry e.cpu e.dir e.entry.start e.entry.stop

/-- Code 1: the tag is one of 0x01 to 0x14. -/
def tagOk (e : Located) : Bool :=
  match e.entry.cap with
  | .reserved _ => false
  | _ => true

/-- The buffer exists and is of kind ROM. -/
def isRom (cfg : Config) (b : Nat) : Bool :=
  match cfg.buffers[b]? with
  | some buf => decide (buf.kind = .rom)
  | none => false

/-- Code 2: the list admits the tag (the table of R91, R93). -/
def directionOk (cfg : Config) (e : Located) : Bool :=
  match e.entry.cap, e.dir with
  | .rom .., .write => false
  | .banked k, .write =>
    match cfg.banks[k]? with
    | some bank => !isRom cfg bank.region
    | none => true
  | .banksel .., .read => false
  | .irqen .., .read => false
  | .nmien .., .read => false
  | .irqclr .., .read => false
  | .hsStatus .., .write => false
  | .mcuStatus .., .write => false
  | .mcuDdr .., .read => false
  | .soundBusy .., .write => false
  | .input .., .write => false
  | .vreg .., .read => false
  | _, _ => true

/-- Code 3: a role-restricted entry is owned by a CPU with that role (R91, R93). -/
def roleOk (cfg : Config) (e : Located) : Bool :=
  let primaryOf (h : Nat) : Bool := (cfg.handshakes[h]?.map (·.primary)) == some e.cpu
  let secondaryOf (h : Nat) : Bool := (cfg.handshakes[h]?.map (·.secondary)) == some e.cpu
  let linkPrimary (m : Nat) : Bool := (cfg.links[m]?.map (·.primary)) == some e.cpu
  let linkMcu (m : Nat) : Bool := (cfg.links[m]?.map (·.mcu)) == some e.cpu
  match e.entry.cap, e.dir with
  | .hsCmd h, .read => secondaryOf h
  | .hsCmd h, .write => primaryOf h
  | .hsRes h, .read => primaryOf h
  | .hsRes h, .write => secondaryOf h
  | .hsStatus h, _ => primaryOf h || secondaryOf h
  | .mcuData m, _ => linkPrimary m
  | .mcuStatus m, _ => linkPrimary m
  | .mcuPort m _, _ => linkMcu m
  | .mcuDdr m _, _ => linkMcu m
  | _, _ => true

/-- Code 4: `start ≤ end ≤ 2^ADDR_BITS[c] - 1`. -/
def rangeOk (cfg : Config) (e : Located) : Bool :=
  match cfg.cpus[e.cpu]? with
  | some cpu => e.entry.start ≤ e.entry.stop && e.entry.stop ≤ 2 ^ cpu.addrBits - 1
  | none => false

/-- Two entries overlap. -/
def overlaps (x y : Entry) : Bool := x.start ≤ y.stop && y.start ≤ x.stop

/-- The entry may follow the earlier ones: it overlaps none of them and starts no lower than any (code 5). -/
def follows (earlier : List Entry) (e : Entry) : Bool :=
  earlier.all fun x => !overlaps x e && x.start ≤ e.start

/-- The first entry of a list that may not follow the entries before it (code 5: "the second entry"). -/
def firstOverlap (earlier : List Entry) : List Entry → Option Entry
  | [] => none
  | e :: rest => if follows earlier e then firstOverlap (earlier ++ [e]) rest else some e

/-- The size of a buffer, none where it does not exist. -/
def bufSize (cfg : Config) (b : Nat) : Option Nat := cfg.buffers[b]?.map (·.size)

/-- Code 6: `o + (end - start) < size(b)`, and the buffer kind the tag needs: RAM for `RAM`, ROM for `ROM`, RAM for a
`PALETTE` entry that writes (log entry 9). -/
def boundsOk (cfg : Config) (e : Located) : Bool :=
  match e.entry.cap with
  | .ram b o => cfg.hasByte b (o + (e.entry.stop - e.entry.start)) && cfg.isRam b
  | .rom b o => cfg.hasByte b (o + (e.entry.stop - e.entry.start)) && isRom cfg b
  | .palette b o => cfg.hasByte b (o + (e.entry.stop - e.entry.start)) && (decide (e.dir = .read) || cfg.isRam b)
  | _ => true

/-- `mask = 2^n - 1` for some n (R132). -/
def lowMask (m : Nat) : Bool := m &&& (m + 1) == 0

/-- Code 7: the three conditions of R132 for bank k. -/
def bankOk (cfg : Config) (k : Nat) (bank : BankCfg) : Bool :=
  lowMask bank.mask &&
    (match bufSize cfg bank.region with
      | some size => bank.bankBase + (bank.mask + 1) * bank.bankSize ≤ size
      | none => false) &&
    (Located.all cfg).all (fun e => e.entry.cap != .banked k || e.entry.stop + 1 - e.entry.start == bank.bankSize)

/-- Code 8: a `SHARED` entry has the region's length. A region that does not exist has no size: check 9 refuses it. -/
def sharedOk (cfg : Config) (e : Located) : Bool :=
  match e.entry.cap with
  | .shared r =>
    match cfg.shared[r]?.bind (fun region => bufSize cfg region.buffer) with
    | some size => e.entry.stop + 1 - e.entry.start == size
    | none => true
  | _ => true

/-! #### Check 9 -/

/-- The CPU exists and has the pending-NMI latch. -/
def hasLatch (cfg : Config) (c : Nat) : Bool :=
  match cfg.cpus[c]? with
  | some cpu => cpu.nmiLatch
  | none => false

/-- The objects an entry names exist (R91). -/
def refsOk (cfg : Config) (e : Located) : Bool :=
  match e.entry.cap with
  | .banked k => k < cfg.banks.length
  | .banksel k => k < cfg.banks.length
  | .shared r => r < cfg.shared.length
  | .irqen c line _ => cfg.hasLine c line
  | .nmien c => hasLatch cfg c
  | .irqclr c t => cfg.hasCpu c && cfg.hasType t
  | .sound dev => dev < cfg.sounds.length
  | .soundBusy dev => dev < cfg.sounds.length
  | .vreg l => cfg.hasLayer l
  | _ => true

/-- The bit of an `IRQEN` entry lies in a byte. -/
def irqenBitOk (e : Located) : Bool :=
  match e.entry.cap with
  | .irqen _ _ bit => bit < 8
  | _ => true

/-- The CPU and type of a line reference exist. -/
def lineOk (cfg : Config) (c : Nat) (t : IntType) : Bool := cfg.hasCpu c && cfg.hasType t

/-- An optional line reference is well formed. -/
def clearOk (cfg : Config) : Option LineRef → Bool
  | some r => lineOk cfg r.cpu r.type
  | none => true

/-- An optional assertion is well formed. -/
def assertOk (cfg : Config) : Option LineAssert → Bool
  | some a => lineOk cfg a.cpu a.type
  | none => true

/-- An owner of shared region r: its CPU exists, its range has the region's length and is a window on the region in that
CPU's read map and in its write map (R25). -/
def ownerOk (cfg : Config) (r : Nat) (region : SharedCfg) (o : Owner) : Bool :=
  cfg.hasCpu o.cpu && bufSize cfg region.buffer == some (o.stop + 1 - o.start) &&
    [Dir.read, .write].all fun dir => (cfg.map o.cpu dir).any (fun e => e == ⟨o.start, o.stop, .shared r⟩)

/-- Every shared region is a RAM buffer, with its owners' ranges as R25 has them (log entry 9). -/
def regionsOk (cfg : Config) : Bool :=
  (List.range cfg.shared.length).all fun r =>
    match cfg.shared[r]? with
    | some region => cfg.isRam region.buffer && region.owners.all (ownerOk cfg r region)
    | none => true

/-- A handshake record is well formed. -/
def handshakeOk (cfg : Config) (h : HandshakeCfg) : Bool :=
  cfg.hasCpu h.primary && cfg.hasCpu h.secondary && clearOk cfg h.cmdReadClear &&
    (match h.cmdEffect with
      | .none => true
      | .assert a => lineOk cfg a.cpu a.type
      | .nmiTrigger c => hasLatch cfg c)

/-- A link record is well formed. -/
def linkOk (cfg : Config) (m : LinkCfg) : Bool :=
  cfg.hasCpu m.primary && cfg.hasCpu m.mcu && m.triggers.all (fun t => t.bit < 8) && m.statusReadyBit < 8 &&
    m.statusResultBit < 8 && m.statusReadyBit != m.statusResultBit && assertOk cfg m.mainWriteAssert &&
    assertOk cfg m.sendAssert && clearOk cfg m.latchClear && clearOk cfg m.dataReadClear

/-- The numbers of a list are pairwise distinct: a running bit set. -/
def distinctFrom (seen : Nat) : List Nat → Bool
  | [] => true
  | a :: rest => !seen.testBit a && distinctFrom (seen ||| 1 <<< a) rest

/-- A layer record meets the constraints of R251. -/
def layerOk (cfg : Config) (l : LayerCfg) : Bool :=
  let attrs := tabulate (fun cell => l.cellAttrAddr.apply [cell]) 0 (l.cols * l.rows)
  let codes := tabulate (fun cell => l.cellCodeAddr.apply [cell]) 0 (l.cols * l.rows)
  cfg.isRam l.tileRam && 1 ≤ l.cols && 1 ≤ l.rows && 1 ≤ l.tileW && 1 ≤ l.tileH && 1 ≤ l.numTiles &&
    (l.scrollxBits == 8 || l.scrollxBits == 9 && l.scrollxHiBit < 8) &&
    attrs.all (cfg.hasByte l.tileRam) && codes.all (cfg.hasByte l.tileRam) &&
    distinctFrom 0 attrs && distinctFrom 0 codes &&
    (tabulate (fun a => a) 0 256).all (fun a => l.flipxFn.apply [a] ≤ 1 && l.flipyFn.apply [a] ≤ 1)

/-- The number of a register field. -/
def VregField.index : VregField → Nat
  | .scrollxLo => 0
  | .scrollxHi => 1
  | .scrolly => 2
  | .bank => 3
  | .ctrl => 4

/-- A layout is a partial function that names a field at most once (R230). -/
def layoutOk (l : LayerCfg) : Bool :=
  distinctFrom 0 (l.vregLayout.map (·.1)) && distinctFrom 0 (l.vregLayout.map fun p => VregField.index p.2)

/-- A layer's interrupt-enable bit is well formed (R235). -/
def vctrlOk (cfg : Config) (l : LayerCfg) : Bool :=
  match l.vctrlIrq with
  | some v => cfg.hasLine v.cpu v.line && v.bit < 8
  | none => true

/-- A sprite field lies within one of the entry's bytes. -/
def fieldOk (stride : Nat) (f : SpriteField) : Bool := f.byte < stride && f.lo + f.width ≤ 8

/-- A field of a fixed width. -/
def fieldOf (stride width : Nat) (f : SpriteField) : Bool := fieldOk stride f && f.width == width

/-- An optional field that meets a condition. -/
def optField (ok : SpriteField → Bool) : Option SpriteField → Bool
  | some f => ok f
  | none => true

/-- The sprite record meets the constraints of R98 and R260; `SPRITE_ORDER` is an order of the entries. -/
def spritesOk (cfg : Config) : Bool :=
  let sp := cfg.sprites
  let lay := sp.layout
  cfg.isRam sp.sprRam &&
    (match bufSize cfg sp.sprRam with
      | some size => sp.sprBase + sp.count * sp.stride ≤ size
      | none => false) &&
    4 ≤ sp.stride && sp.stride ≤ 8 && 1 ≤ sp.numSpriteTiles &&
    fieldOf sp.stride 8 lay.y && fieldOf sp.stride 8 lay.codeLo && fieldOf sp.stride 8 lay.xByte &&
    optField (fieldOk sp.stride) lay.codeHi && optField (fieldOf sp.stride 1) lay.xExt &&
    fieldOk sp.stride lay.color && fieldOf sp.stride 1 lay.flipX && fieldOf sp.stride 1 lay.flipY &&
    fieldOf sp.stride 2 lay.size && optField (fieldOk sp.stride) lay.prio &&
    sp.spriteOrder.length == sp.count && sp.spriteOrder.all (· < sp.count) && distinctFrom 0 sp.spriteOrder

/-- `PALETTE_SIZE ≥ 1`, the buffer holds the palette (every byte that `PALETTE_DECODE` reads for an index lies in it),
and `BG_PEN` is a palette index (log entry 9). -/
def paletteOk (cfg : Config) : Bool :=
  let p := cfg.palette
  1 ≤ p.paletteSize && p.bgPen < p.paletteSize &&
    (tabulate (fun i => i) 0 p.paletteSize).all fun i =>
      (p.decodeR.reads (fun _ => 0) [i] ++ p.decodeG.reads (fun _ => 0) [i] ++ p.decodeB.reads (fun _ => 0) [i]).all
        (cfg.hasByte p.buffer)

/-- `DRAW_ORDER` names existing layers and sprite groups (R300). Without `PRIO_FIELD` the one group is `ALL` (R252). With
it the spec does not say which groups exist; DESIGN CHOICE (log entry 9): the numbers that the field can hold, p < 2 to
its width, and not `ALL`. -/
def drawItemOk (cfg : Config) : DrawItem → Bool
  | .layer l => cfg.hasLayer l
  | .sprites none => cfg.sprites.layout.prio == none
  | .sprites (some p) =>
    match cfg.sprites.layout.prio with
    | some f => p < 2 ^ f.width
    | none => false

/-- `INT_PRIORITY` is a total order on `INT_TYPES`: it lists each of them once. -/
def priorityOk (cfg : Config) : Bool :=
  cfg.intPriority.all cfg.hasType && cfg.intTypes.all (fun t => cfg.intPriority.any (fun u => u == t)) &&
    distinctFrom 0 (cfg.intPriority.map (·.code))

/-- The parameters of check 9 with their conditions, in the order of the table of R7. -/
def paramChecks (cfg : Config) : List (Param × Bool) :=
  let es := Located.all cfg
  [(.nCpu, decide (1 ≤ cfg.cpus.length)),
   (.addrBits, cfg.cpus.all fun c => 1 ≤ c.addrBits),
   (.readMap, es.all fun e => e.dir == .write || refsOk cfg e),
   (.writeMap, es.all fun e => e.dir == .read || refsOk cfg e),
   (.shared, regionsOk cfg),
   (.slices, decide (1 ≤ cfg.slices)),
   (.queryPeriod, cfg.cpus.all fun c => 1 ≤ c.queryPeriod),
   (.intTypes, [IntType.nmi, .firq, .irq, .irq1].all cfg.hasType),
   (.intPriority, priorityOk cfg),
   (.polled, cfg.cpus.all fun c => c.polled.all (fun p => cfg.hasType p.2)),
   (.irqenBit, es.all irqenBitOk),
   (.nmienBit, cfg.cpus.all fun c => !c.nmiLatch || c.nmienBit < 8),
   (.handshakes, cfg.handshakes.all (handshakeOk cfg)),
   (.mcuLinks, cfg.links.all (linkOk cfg)),
   (.soundDevices, cfg.sounds.all (· < 8)),
   (.layers, cfg.layers.all (layerOk cfg)),
   (.vregLayout, cfg.layers.all layoutOk),
   (.vctrlIrq, cfg.layers.all (vctrlOk cfg)),
   (.flipSourceLayer, cfg.hasLayer cfg.flipSourceLayer),
   (.flipscreenBit, decide (cfg.flipscreenBit < 8)),
   (.sprites, spritesOk cfg),
   (.palette, paletteOk cfg),
   (.drawOrder, cfg.drawOrder.all (drawItemOk cfg))]

/-- The first entry that fails a per-entry check. -/
def firstEntry (cfg : Config) (code : CheckCode) (ok : Located → Bool) : Option ConfigError :=
  ((Located.all cfg).find? (fun e => !ok e)).map fun e => ⟨code, e.object⟩

/-- The first failure of code 5, list by list in configuration order. -/
def overlapError (cfg : Config) : Option ConfigError :=
  (List.range cfg.cpus.length).findSome? fun c =>
    [Dir.read, Dir.write].findSome? fun dir =>
      (firstOverlap [] (cfg.map c dir)).map fun e => ⟨.overlap, .entry c dir e.start e.stop⟩

/-- The first failure of code 7. -/
def bankError (cfg : Config) : Option ConfigError :=
  (List.range cfg.banks.length).findSome? fun k =>
    match cfg.banks[k]? with
    | some bank => if bankOk cfg k bank then none else some ⟨.bank, .bank k⟩
    | none => none

/-- The first failure of code 9. -/
def paramError (cfg : Config) : Option ConfigError :=
  ((paramChecks cfg).find? (fun p => !p.2)).map fun p => ⟨.param, .param p.1⟩

/-- The first failure of the checks 1 to 9, in that order, or `none` (R300). -/
def checkConfig (cfg : Config) : Option ConfigError :=
  [firstEntry cfg .tag tagOk,
   firstEntry cfg .direction (directionOk cfg),
   firstEntry cfg .role (roleOk cfg),
   firstEntry cfg .range (rangeOk cfg),
   overlapError cfg,
   firstEntry cfg .bounds (boundsOk cfg),
   bankError cfg,
   firstEntry cfg .shared (sharedOk cfg),
   paramError cfg].findSome? id

/-- The state after `CONFIG.CHECK` (R300). -/
def State.checked (s : State) : State :=
  match checkConfig s.cfg with
  | none => { s with phase := .running }
  | some e => { s with phase := .configError, error := some e }

/-- `CONFIG.CHECK` (R300), performed while `st.phase = SETUP`. -/
def execConfigCheck (s : State) : Host.Outcome State Fault Refusal :=
  match s.phase with
  | .setup => .next s.checked
  | .running => .refused .notEnabled
  | .configError => .refused .configError

end Sys2Proof.Machine
end

