-- ==== Sys2Proof/Machine/Decoder.lean ====
section
/-! DEFINITION. The transactions of 40_decoder.md: open bus, plain memory, banks, shared memory, sound and input. -/

namespace Sys2Proof.Machine

/-- `RD.OPEN` (R122): returns `OPEN_BUS[c]`. -/
def execRdOpen (c _a : Nat) (s : State) : Host.Outcome State Fault Refusal :=
  match s.cfg.cpus[c]? with
  | some cpu => .next (s.emit (.read c cpu.openBus))
  | none => .refused .noSuchObject

/-- `WR.OPEN` (R123): no state changes. -/
def execWrOpen (_c _a : Nat) (_d : Byte) (s : State) : Host.Outcome State Fault Refusal := .next s

/-- `RD.RAM` (R125). -/
def execRdRam (c b o off : Nat) (s : State) : Host.Outcome State Fault Refusal :=
  Outcome.whenByte (s.cfg.hasByte b (o + off)) (s.emit (.read c (s.memRead b (o + off))))

/-- `WR.RAM` (R126): every write of a layer's tile RAM marks the layer dirty. -/
def execWrRam (_c b o off : Nat) (d : Byte) (s : State) : Host.Outcome State Fault Refusal :=
  Outcome.whenByte (s.cfg.hasByte b (o + off)) (s.storeByte b (o + off) d)

/-- `RD.ROM` (R127). -/
def execRdRom (c b o off : Nat) (s : State) : Host.Outcome State Fault Refusal :=
  Outcome.whenByte (s.cfg.hasByte b (o + off)) (s.emit (.read c (s.memRead b (o + off))))

/-- `RD.BANK` (R129). -/
def execRdBank (c k off : Nat) (s : State) : Host.Outcome State Fault Refusal :=
  match s.cfg.banks[k]? with
  | some bank =>
    Outcome.whenByte (s.cfg.hasByte bank.region (bank.offset (s.bankIdx k) off))
      (s.emit (.read c (s.memRead bank.region (bank.offset (s.bankIdx k) off))))
  | none => .refused .noSuchObject

/-- `WR.BANK` (R130). -/
def execWrBank (_c k off : Nat) (d : Byte) (s : State) : Host.Outcome State Fault Refusal :=
  match s.cfg.banks[k]? with
  | some bank =>
    Outcome.whenByte (s.cfg.hasByte bank.region (bank.offset (s.bankIdx k) off))
      (s.storeByte bank.region (bank.offset (s.bankIdx k) off) d)
  | none => .refused .noSuchObject

/-- `WR.BANKSEL` (R131): `st.bank[k] <- d & mask(k)`. -/
def execWrBanksel (_c k : Nat) (d : Byte) (s : State) : Host.Outcome State Fault Refusal :=
  match s.cfg.banks[k]? with
  | some bank => .next (s.setBank k (d.toNat &&& bank.mask))
  | none => .refused .noSuchObject

/-- `RD.SHARED` (R133). -/
def execRdShared (c r off : Nat) (s : State) : Host.Outcome State Fault Refusal :=
  match s.cfg.shared[r]? with
  | some region =>
    Outcome.whenByte (s.cfg.hasByte region.buffer off) (s.emit (.read c (s.memRead region.buffer off)))
  | none => .refused .noSuchObject

/-- `WR.SHARED` (R134). -/
def execWrShared (_c r off : Nat) (d : Byte) (s : State) : Host.Outcome State Fault Refusal :=
  match s.cfg.shared[r]? with
  | some region => Outcome.whenByte (s.cfg.hasByte region.buffer off) (s.storeByte region.buffer off d)
  | none => .refused .noSuchObject

/-- `WR.SOUND` (R140): the write is forwarded to the device as an event; no block state changes. -/
def execWrSound (_c dev off : Nat) (d : Byte) (s : State) : Host.Outcome State Fault Refusal :=
  Outcome.whenObject (dev < s.cfg.sounds.length) (s.emit (.soundWrite dev off d))

/-- `RD.SOUND` (R141): returns a draw. -/
def execRdSound (c dev off : Nat) (s : State) : Host.Outcome State Fault Refusal :=
  Outcome.whenObject (dev < s.cfg.sounds.length) (s.drawn.emit (.read c (Config.drawSoundRead dev off s.draws)))

/-- `RD.SOUND_BUSY` (R142): a drawn busy bit at `BUSY_BIT(s)`, the other bits 0. -/
def execRdSoundBusy (c dev : Nat) (s : State) : Host.Outcome State Fault Refusal :=
  match s.cfg.sounds[dev]? with
  | some busyBit =>
    .next (s.drawn.emit (.read c (BitVec.ofNat 8 (bitVal (Config.drawSoundBusy dev s.draws) <<< busyBit))))
  | none => .refused .noSuchObject

/-- `RD.INPUT` (R143): returns a draw of port `i0 + off`. -/
def execRdInput (c i0 off : Nat) (s : State) : Host.Outcome State Fault Refusal :=
  .next (s.drawn.emit (.read c (Config.drawInputPort (i0 + off) s.draws)))

end Sys2Proof.Machine
end

