-- ==== Sys2Proof/Machine/Handshake.lean ====
section
/-! DEFINITION. The latch handshake and the microcontroller link, 42_handshake.md. -/

namespace Sys2Proof.Machine

/-- `CMD_EFFECT(h)` (R196). -/
def State.commandEffect (s : State) : CmdEffect → State
  | .none => s
  | .assert a => s.assertLine a.cpu a.type a.mode
  | .nmiTrigger c => s.triggerNmi c

/-- `HS.YIELD(w)` (R195). -/
def State.yield (s : State) (_w : Nat) : State := { s with yieldReq := true }

/-- `WR.HS_CMD` (R190). -/
def execWrHsCmd (w h : Nat) (d : Byte) (s : State) : Host.Outcome State Fault Refusal :=
  match s.cfg.handshakes[h]? with
  | some hc =>
    let r := s.hsOf h
    let t := (s.setHs h { r with cmd := d, pend := withPend r.pend 0 true }).commandEffect hc.cmdEffect
    .next (if hc.syncDelivery then t.yield w else t)
  | none => .refused .noSuchObject

/-- `RD.HS_CMD` (R191). -/
def execRdHsCmd (c h : Nat) (s : State) : Host.Outcome State Fault Refusal :=
  match s.cfg.handshakes[h]? with
  | some hc =>
    let r := s.hsOf h
    .next (((s.setHs h { r with pend := withPend r.pend 0 false }).clearOpt hc.cmdReadClear).emit (.read c r.cmd))
  | none => .refused .noSuchObject

/-- `WR.HS_RES` (R192). -/
def execWrHsRes (_c h : Nat) (d : Byte) (s : State) : Host.Outcome State Fault Refusal :=
  let r := s.hsOf h
  Outcome.whenObject (h < s.cfg.handshakes.length) (s.setHs h { r with res := d, pend := withPend r.pend 1 true })

/-- `RD.HS_RES` (R193). -/
def execRdHsRes (w h : Nat) (s : State) : Host.Outcome State Fault Refusal :=
  let r := s.hsOf h
  Outcome.whenObject (h < s.cfg.handshakes.length)
    ((s.setHs h { r with pend := withPend r.pend 1 false }).emit (.read w r.res))

/-- `RD.HS_STATUS` (R194). -/
def execRdHsStatus (c h : Nat) (s : State) : Host.Outcome State Fault Refusal :=
  match s.cfg.handshakes[h]? with
  | some hc => .next (s.emit (.read c (hsStatus (s.hsOf h).pend hc.invertMask)))
  | none => .refused .noSuchObject

/-- `HS.YIELD` (R195). -/
def execHsYield (w : Nat) (s : State) : Host.Outcome State Fault Refusal :=
  Outcome.whenObject (s.cfg.hasCpu w) (s.yield w)

/-- `WR.MCU_DATA` (R200). -/
def execWrMcuData (_w m : Nat) (d : Byte) (s : State) : Host.Outcome State Fault Refusal :=
  match s.cfg.links[m]? with
  | some lc => .next ((s.setLink m { s.linkOf m with fromMain := d, mainSent := true }).assertOpt lc.mainWriteAssert)
  | none => .refused .noSuchObject

/-- `RD.MCU_DATA` (R201). -/
def execRdMcuData (w m : Nat) (s : State) : Host.Outcome State Fault Refusal :=
  match s.cfg.links[m]? with
  | some lc =>
    .next (((s.setLink m { s.linkOf m with mcuSent := false }).clearOpt lc.dataReadClear).emit
      (.read w (s.linkOf m).fromMcu))
  | none => .refused .noSuchObject

/-- `RD.MCU_STATUS` (R202). -/
def execRdMcuStatus (w m : Nat) (s : State) : Host.Outcome State Fault Refusal :=
  match s.cfg.links[m]? with
  | some lc => .next (s.emit (.read w (mcuStatus lc (s.linkOf m).mainSent (s.linkOf m).mcuSent)))
  | none => .refused .noSuchObject

/-- `WR.MCU_DDR` (R203): no port action. -/
def execWrMcuDdr (_u m : Nat) (p : Port) (d : Byte) (s : State) : Host.Outcome State Fault Refusal :=
  Outcome.whenObject (m < s.cfg.links.length) (s.setLink m ((s.linkOf m).withDdr p d))

/-- The triggers of a port write that fire between two gated outputs, run in table order (R204, D59). -/
def State.runTriggers (s : State) (m : Nat) (ts : List Trigger) (old new : Byte) : State :=
  ts.foldl (fun s t => if t.fires old new then s.portAction m t.action else s) s

/-- `WR.MCU_PORT` (R204): the gated latch write, then, on port B, the triggers of the edges of `latch & ddr`. -/
def execWrMcuPort (_u m : Nat) (p : Port) (d : Byte) (s : State) : Host.Outcome State Fault Refusal :=
  match s.cfg.links[m]? with
  | some lc =>
    let l := s.linkOf m
    let latch := portLatch (l.latch p) (l.ddr p) d
    let t := s.setLink m (l.withLatch p latch)
    .next (match p with
      | .a => t
      | .b => t.runTriggers m lc.triggers (l.latch p &&& l.ddr p) (latch &&& l.ddr p))
  | none => .refused .noSuchObject

/-- `RD.MCU_PORT` (R205): port A's input is `portA_in`, port B's is drawn. -/
def execRdMcuPort (u m : Nat) (p : Port) (s : State) : Host.Outcome State Fault Refusal :=
  let l := s.linkOf m
  Outcome.whenObject (m < s.cfg.links.length)
    (match p with
      | .a => s.emit (.read u (portPins l.latchA l.ddrA l.portAIn))
      | .b => s.drawn.emit (.read u (portPins l.latchB l.ddrB (Config.drawPortBIn m s.draws))))

/-- `ACT.LATCH_FROM_MAIN` (R207). -/
def execActLatchFromMain (m : Nat) (s : State) : Host.Outcome State Fault Refusal :=
  Outcome.whenObject (m < s.cfg.links.length) (s.latchFromMain m)

/-- `ACT.SEND_TO_MAIN` (R208). -/
def execActSendToMain (m : Nat) (s : State) : Host.Outcome State Fault Refusal :=
  Outcome.whenObject (m < s.cfg.links.length) (s.sendToMain m)

end Sys2Proof.Machine
end

