-- ==== Sys2Proof/Machine/Interrupts.lean ====
section
/-! DEFINITION. The interrupt line controller, 41_interrupts.md. -/

namespace Sys2Proof.Machine

/-- `WR.IRQEN` (R161): only the designated bit matters. -/
def execWrIrqen (_w c line bit : Nat) (d : Byte) (s : State) : Host.Outcome State Fault Refusal :=
  Outcome.whenObject (s.cfg.hasLine c line) (s.setIrqEn c line (bitOf d bit))

/-- `WR.NMIEN` (R162): enabling with an NMI pending clears the latch and asserts one pulse (log entry 16 for a CPU
without the latch). -/
def execWrNmien (_w c : Nat) (d : Byte) (s : State) : Host.Outcome State Fault Refusal :=
  match s.cfg.cpus[c]? with
  | some cpu =>
    let new := bitOf d cpu.nmienBit
    let t := s.setNmiEn c new
    .next (if new && s.nmiPending c then (t.setNmiPending c false).assertLine c .nmi .pulse else t)
  | none => .refused .noSuchObject

/-- `WR.IRQCLR` (R166): `INT.CLEAR`, the byte ignored. -/
def execWrIrqclr (_w c : Nat) (t : IntType) (_d : Byte) (s : State) : Host.Outcome State Fault Refusal :=
  Outcome.whenObject (s.cfg.hasCpu c && s.cfg.hasType t) (s.clearLine c t)

/-- `INT.QUERY` (R167, R169). -/
def execIntQuery (c : Nat) (early : Bool) (s : State) : Host.Outcome State Fault Refusal :=
  Outcome.whenObject (s.cfg.hasCpu c) (s.query c early)

/-- `INT.ASSERT` (R163). -/
def execIntAssert (c : Nat) (t : IntType) (mode : AssertMode) (s : State) : Host.Outcome State Fault Refusal :=
  Outcome.whenObject (s.cfg.hasCpu c && s.cfg.hasType t) (s.assertLine c t mode)

/-- `INT.CLEAR` (R164). -/
def execIntClear (c : Nat) (t : IntType) (s : State) : Host.Outcome State Fault Refusal :=
  Outcome.whenObject (s.cfg.hasCpu c && s.cfg.hasType t) (s.clearLine c t)

/-- `NMI.TRIGGER` (R165). -/
def execNmiTrigger (c : Nat) (s : State) : Host.Outcome State Fault Refusal :=
  Outcome.whenObject (s.cfg.hasCpu c) (s.triggerNmi c)

end Sys2Proof.Machine
end

