-- ==== Sys2Proof/Machine/Video.lean ====
section
/-! DEFINITION. The video registers and the palette, 43_video_registers.md. -/

namespace Sys2Proof.Machine

/-- `WR.VREG` (R230): the register that `VREG_LAYOUT[l]` names at the offset is written; an offset it does not name
changes nothing. -/
def execWrVreg (_w l off : Nat) (d : Byte) (s : State) : Host.Outcome State Fault Refusal :=
  Outcome.whenObject (s.cfg.hasLayer l)
    (match s.cfg.vregField l off with
      | some .scrollxLo => s.writeScrollxLo l d
      | some .scrollxHi => s.writeScrollxHi l d
      | some .scrolly => s.writeScrolly l d
      | some .bank => s.writeVbank l d
      | some .ctrl => s.writeVctrl l d
      | none => s)

/-- `WR.VREG.SCROLLX_LO` (R231). -/
def execWrVregScrollxLo (_w l : Nat) (d : Byte) (s : State) : Host.Outcome State Fault Refusal :=
  Outcome.whenObject (s.cfg.hasLayer l) (s.writeScrollxLo l d)

/-- `WR.VREG.SCROLLX_HI` (R232). -/
def execWrVregScrollxHi (_w l : Nat) (d : Byte) (s : State) : Host.Outcome State Fault Refusal :=
  Outcome.whenObject (s.cfg.hasLayer l) (s.writeScrollxHi l d)

/-- `WR.VREG.SCROLLY` (R233). -/
def execWrVregScrolly (_w l : Nat) (d : Byte) (s : State) : Host.Outcome State Fault Refusal :=
  Outcome.whenObject (s.cfg.hasLayer l) (s.writeScrolly l d)

/-- `WR.VREG.BANK` (R234). -/
def execWrVregBank (_w l : Nat) (d : Byte) (s : State) : Host.Outcome State Fault Refusal :=
  Outcome.whenObject (s.cfg.hasLayer l) (s.writeVbank l d)

/-- `WR.VREG.CTRL` (R235). -/
def execWrVregCtrl (_w l : Nat) (d : Byte) (s : State) : Host.Outcome State Fault Refusal :=
  Outcome.whenObject (s.cfg.hasLayer l) (s.writeVctrl l d)

/-- `WR.PALETTE` (R238). -/
def execWrPalette (_w b o off : Nat) (d : Byte) (s : State) : Host.Outcome State Fault Refusal :=
  Outcome.whenByte (s.cfg.hasByte b (o + off)) (s.storeByte b (o + off) d)

/-- `RD.PALETTE` (R239). -/
def execRdPalette (w b o off : Nat) (s : State) : Host.Outcome State Fault Refusal :=
  Outcome.whenByte (s.cfg.hasByte b (o + off)) (s.emit (.read w (s.memRead b (o + off))))

end Sys2Proof.Machine
end

