-- ==== Sys2Proof/Machine/Transaction.lean ====
section
/-! DEFINITION. Performing a transaction (R120): the operations that a transaction can select, each by its meaning. The
scheduler (Scheduler.lean), whose own operations run transactions, calls this; exec (Dispatch.lean) gives each of them
the same meaning. -/

namespace Sys2Proof.Machine

/-- The operation is one that a transaction selects; the internal operations are presented by no CPU (R92). -/
def isTransaction : Instr → Bool
  | .rdOpen .. => true
  | .wrOpen .. => true
  | .rdRam .. => true
  | .wrRam .. => true
  | .rdRom .. => true
  | .rdBank .. => true
  | .wrBank .. => true
  | .wrBanksel .. => true
  | .rdShared .. => true
  | .wrShared .. => true
  | .wrIrqen .. => true
  | .wrNmien .. => true
  | .wrIrqclr .. => true
  | .wrHsCmd .. => true
  | .rdHsCmd .. => true
  | .wrHsRes .. => true
  | .rdHsRes .. => true
  | .rdHsStatus .. => true
  | .wrMcuData .. => true
  | .rdMcuData .. => true
  | .rdMcuStatus .. => true
  | .wrMcuDdr .. => true
  | .wrMcuPort .. => true
  | .rdMcuPort .. => true
  | .wrSound .. => true
  | .rdSound .. => true
  | .rdSoundBusy .. => true
  | .rdInput .. => true
  | .wrVreg .. => true
  | .wrVregScrollxLo .. => true
  | .wrVregScrollxHi .. => true
  | .wrVregScrolly .. => true
  | .wrVregBank .. => true
  | .wrVregCtrl .. => true
  | .wrPalette .. => true
  | .rdPalette .. => true
  | .intQuery .. => false
  | .intAssert .. => false
  | .intClear .. => false
  | .nmiTrigger .. => false
  | .actLatchFromMain .. => false
  | .actSendToMain .. => false
  | .hsYield .. => false
  | .schedSlice => false
  | .schedFrame => false
  | .compose => false
  | .tileResolve .. => false
  | .layerDraw .. => false
  | .spriteDecode .. => false
  | .spriteDraw .. => false
  | .paletteResolve => false
  | .reset => false
  | .configCheck => false

/-- Performs an operation that a transaction selects (R120). -/
def performTxn (i : Instr) (s : State) : Host.Outcome State Fault Refusal :=
  match i with
  | .rdOpen c a => execRdOpen c a s
  | .wrOpen c a d => execWrOpen c a d s
  | .rdRam c b o off => execRdRam c b o off s
  | .wrRam c b o off d => execWrRam c b o off d s
  | .rdRom c b o off => execRdRom c b o off s
  | .rdBank c k off => execRdBank c k off s
  | .wrBank c k off d => execWrBank c k off d s
  | .wrBanksel c k d => execWrBanksel c k d s
  | .rdShared c r off => execRdShared c r off s
  | .wrShared c r off d => execWrShared c r off d s
  | .wrIrqen w c line bit d => execWrIrqen w c line bit d s
  | .wrNmien w c d => execWrNmien w c d s
  | .wrIrqclr w c t d => execWrIrqclr w c t d s
  | .wrHsCmd w h d => execWrHsCmd w h d s
  | .rdHsCmd c h => execRdHsCmd c h s
  | .wrHsRes c h d => execWrHsRes c h d s
  | .rdHsRes w h => execRdHsRes w h s
  | .rdHsStatus c h => execRdHsStatus c h s
  | .wrMcuData w m d => execWrMcuData w m d s
  | .rdMcuData w m => execRdMcuData w m s
  | .rdMcuStatus w m => execRdMcuStatus w m s
  | .wrMcuDdr u m p d => execWrMcuDdr u m p d s
  | .wrMcuPort u m p d => execWrMcuPort u m p d s
  | .rdMcuPort u m p => execRdMcuPort u m p s
  | .wrSound c dev off d => execWrSound c dev off d s
  | .rdSound c dev off => execRdSound c dev off s
  | .rdSoundBusy c dev => execRdSoundBusy c dev s
  | .rdInput c i0 off => execRdInput c i0 off s
  | .wrVreg w l off d => execWrVreg w l off d s
  | .wrVregScrollxLo w l d => execWrVregScrollxLo w l d s
  | .wrVregScrollxHi w l d => execWrVregScrollxHi w l d s
  | .wrVregScrolly w l d => execWrVregScrolly w l d s
  | .wrVregBank w l d => execWrVregBank w l d s
  | .wrVregCtrl w l d => execWrVregCtrl w l d s
  | .wrPalette w b o off d => execWrPalette w b o off d s
  | .rdPalette w b o off => execRdPalette w b o off s
  | .intQuery .. => .refused .notEnabled
  | .intAssert .. => .refused .notEnabled
  | .intClear .. => .refused .notEnabled
  | .nmiTrigger .. => .refused .notEnabled
  | .actLatchFromMain .. => .refused .notEnabled
  | .actSendToMain .. => .refused .notEnabled
  | .hsYield .. => .refused .notEnabled
  | .schedSlice => .refused .notEnabled
  | .schedFrame => .refused .notEnabled
  | .compose => .refused .notEnabled
  | .tileResolve .. => .refused .notEnabled
  | .layerDraw .. => .refused .notEnabled
  | .spriteDecode .. => .refused .notEnabled
  | .spriteDraw .. => .refused .notEnabled
  | .paletteResolve => .refused .notEnabled
  | .reset => .refused .notEnabled
  | .configCheck => .refused .notEnabled

end Sys2Proof.Machine
end

