-- ==== Sys2Proof/Machine/Scheduler.lean ====
section
/-! DEFINITION. The scheduler (60_exceptions.md §4): one slice, one frame. What the environment chooses in R311 (the
transactions of a slice, an early query, the slice's end) stands in `State.input`, the script still to come (R102,
R103); where the script is exhausted the environment ends the slice (log entry 6). -/

namespace Sys2Proof.Machine

/-- Why a scheduler step is refused in a phase other than RUNNING (R300, R310). -/
def phaseRefusal : Phase → Refusal
  | .configError => .configError
  | .setup => .notEnabled
  | .running => .notEnabled

/-- `st.round mod QUERY_PERIOD[st.turn] = 0` (R311): the slice of the current CPU opens with a query. -/
def State.queryDue (s : State) : Bool :=
  match s.cfg.cpus[s.turn]? with
  | some cpu => s.round % cpu.queryPeriod == 0
  | none => false

/-- The script without the `Q` line that shows the opening query of CPU c, which may be omitted (R311). -/
def dropQuery (c : Nat) : List ScriptLine → List ScriptLine
  | w :: rest => if w = some (.query c) then rest else w :: rest
  | [] => []

/-- The slice is open, the `Q` line of its opening query, where one is due, taken off the script. -/
def State.opened (s : State) : State :=
  { s with
    slicePos := .ready
    input := if s.queryDue then dropQuery s.turn s.input else s.input }

/-- The opening of a slice (R311): the query, where it is due. -/
def State.openSlice (s : State) : State := if s.queryDue then s.opened.query s.turn false else s.opened

/-- The current CPU presents a transaction (R120, R311). Another CPU's line, or one after a yield, makes the script
invalid; an address outside the CPU's space is never presented (R62). -/
def State.present (s : State) (c : Nat) (dir : Dir) (a : Nat) (d : Byte) (rest : List ScriptLine) :
    Host.Outcome State Fault Refusal :=
  match s.cfg.cpus[c]? with
  | some cpu =>
    if c ≠ s.turn ∨ s.yieldReq = true then .refused .scriptInvalid
    else if 2 ^ cpu.addrBits ≤ a then .refused .outsideSpace
    else match txnInstr s.cfg c dir a d with
      | some i => performTxn i { s with slicePos := .afterTxn, input := rest }
      | none => .refused .reservedKey
  | none => .refused .scriptInvalid

/-- One event of an open slice other than its end (R311): a transaction, or the early query that may follow one
(R169; none after a yield, where the next line must be SLICE). -/
def State.midSlice (s : State) (w : ScriptLine) (rest : List ScriptLine) : Host.Outcome State Fault Refusal :=
  match w with
  | some (.read c a) => s.present c .read a 0 rest
  | some (.write c a d) => s.present c .write a d rest
  | some (.query c) =>
    if c = s.turn ∧ s.slicePos = .afterTxn ∧ s.yieldReq = false then
      execIntQuery c true { s with slicePos := .ready, input := rest }
    else .refused .scriptInvalid
  | _ => .refused .scriptInvalid

/-- The loop of R311, up to the `SLICE` line (taken off) or the end of the script. -/
def sliceLoop : List ScriptLine → State → Host.Outcome State Fault Refusal
  | [], s => .next s
  | w :: rest, s =>
    if w = some .slice then .next { s with input := rest }
    else match s.midSlice w rest with
      | .next t => sliceLoop rest t
      | .fault f => .fault f
      | .refused r => .refused r

/-- The end of a slice (R311): the next CPU's turn, after the last the next round. `st.turn` never passes `N_CPU`
(R35), so `≥` here is the rule's `=` (log entry 6). -/
def State.endSlice (s : State) : State :=
  if s.cfg.cpus.length ≤ s.turn + 1 then
    { s with yieldReq := false, slicePos := .start, turn := 0, round := s.round + 1 }
  else { s with yieldReq := false, slicePos := .start, turn := s.turn + 1 }

/-- One slice of the current CPU, from where it stands to its end. -/
def State.runSlice (s : State) : Host.Outcome State Fault Refusal :=
  let t := if s.slicePos = .start then s.openSlice else s
  match sliceLoop t.input t with
  | .next u => .next u.endSlice
  | .fault f => .fault f
  | .refused r => .refused r

/-- `SCHED.SLICE` (R311). Enabled while RUNNING and before the frame's last slice has ended (R300, R310). -/
def execSchedSlice (s : State) : Host.Outcome State Fault Refusal :=
  if s.phase = .running then
    if s.round < s.cfg.slices then s.runSlice else .refused .notEnabled
  else .refused (phaseRefusal s.phase)

/-- `while st.round < SLICES: SCHED.SLICE()` (R310), for at most `fuel` slices. -/
def sliceRounds : Nat → State → Host.Outcome State Fault Refusal
  | 0, s => .next s
  | fuel + 1, s =>
    if s.round < s.cfg.slices then
      match s.runSlice with
      | .next t => sliceRounds fuel t
      | .fault f => .fault f
      | .refused r => .refused r
    else .next s

/-- Enough fuel for every slice of a frame. -/
def State.frameFuel (s : State) : Nat := s.cfg.slices * (s.cfg.cpus.length + 1)

/-- The script without the `FRAME` line of a completed frame; another line makes it invalid (R311). -/
def dropFrame : List ScriptLine → Option (List ScriptLine)
  | w :: rest => if w = some .frame then some rest else none
  | [] => some []

/-- The end of a frame (R310): `COMPOSE`, the frame count, round 0. -/
def State.endFrame (s : State) (rest : List ScriptLine) : State :=
  { s.composed with frame := s.frame + 1, round := 0, input := rest }

/-- `SCHED.FRAME` (R310). -/
def execSchedFrame (s : State) : Host.Outcome State Fault Refusal :=
  if s.phase = .running then
    match sliceRounds s.frameFuel s with
    | .next t =>
      match dropFrame t.input with
      | some rest => .next (t.endFrame rest)
      | none => .refused .scriptInvalid
    | .fault f => .fault f
    | .refused r => .refused r
  else .refused (phaseRefusal s.phase)

end Sys2Proof.Machine
end

