-- ==== Sys2Proof/Machine/Dispatch.lean ====
section
/-! DEFINITION. One arm per operation of the opcode table: a direct call of its meaning. -/

namespace Sys2Proof.Machine

def exec (i : Instr) (s : State) : Host.Outcome State Fault Refusal :=
  match i with
  | .rdOpen c a => Sys2Proof.Machine.execRdOpen c a s
  | .wrOpen c a d => Sys2Proof.Machine.execWrOpen c a d s
  | .rdRam c b o off => Sys2Proof.Machine.execRdRam c b o off s
  | .wrRam c b o off d => Sys2Proof.Machine.execWrRam c b o off d s
  | .rdRom c b o off => Sys2Proof.Machine.execRdRom c b o off s
  | .rdBank c k off => Sys2Proof.Machine.execRdBank c k off s
  | .wrBank c k off d => Sys2Proof.Machine.execWrBank c k off d s
  | .wrBanksel c k d => Sys2Proof.Machine.execWrBanksel c k d s
  | .rdShared c r off => Sys2Proof.Machine.execRdShared c r off s
  | .wrShared c r off d => Sys2Proof.Machine.execWrShared c r off d s
  | .wrIrqen w c line bit d => Sys2Proof.Machine.execWrIrqen w c line bit d s
  | .wrNmien w c d => Sys2Proof.Machine.execWrNmien w c d s
  | .wrIrqclr w c t d => Sys2Proof.Machine.execWrIrqclr w c t d s
  | .wrHsCmd w h d => Sys2Proof.Machine.execWrHsCmd w h d s
  | .rdHsCmd c h => Sys2Proof.Machine.execRdHsCmd c h s
  | .wrHsRes c h d => Sys2Proof.Machine.execWrHsRes c h d s
  | .rdHsRes w h => Sys2Proof.Machine.execRdHsRes w h s
  | .rdHsStatus c h => Sys2Proof.Machine.execRdHsStatus c h s
  | .wrMcuData w m d => Sys2Proof.Machine.execWrMcuData w m d s
  | .rdMcuData w m => Sys2Proof.Machine.execRdMcuData w m s
  | .rdMcuStatus w m => Sys2Proof.Machine.execRdMcuStatus w m s
  | .wrMcuDdr u m p d => Sys2Proof.Machine.execWrMcuDdr u m p d s
  | .wrMcuPort u m p d => Sys2Proof.Machine.execWrMcuPort u m p d s
  | .rdMcuPort u m p => Sys2Proof.Machine.execRdMcuPort u m p s
  | .wrSound c dev off d => Sys2Proof.Machine.execWrSound c dev off d s
  | .rdSound c dev off => Sys2Proof.Machine.execRdSound c dev off s
  | .rdSoundBusy c dev => Sys2Proof.Machine.execRdSoundBusy c dev s
  | .rdInput c i0 off => Sys2Proof.Machine.execRdInput c i0 off s
  | .wrVreg w l off d => Sys2Proof.Machine.execWrVreg w l off d s
  | .wrVregScrollxLo w l d => Sys2Proof.Machine.execWrVregScrollxLo w l d s
  | .wrVregScrollxHi w l d => Sys2Proof.Machine.execWrVregScrollxHi w l d s
  | .wrVregScrolly w l d => Sys2Proof.Machine.execWrVregScrolly w l d s
  | .wrVregBank w l d => Sys2Proof.Machine.execWrVregBank w l d s
  | .wrVregCtrl w l d => Sys2Proof.Machine.execWrVregCtrl w l d s
  | .wrPalette w b o off d => Sys2Proof.Machine.execWrPalette w b o off d s
  | .rdPalette w b o off => Sys2Proof.Machine.execRdPalette w b o off s
  | .intQuery c early => Sys2Proof.Machine.execIntQuery c early s
  | .intAssert c t mode => Sys2Proof.Machine.execIntAssert c t mode s
  | .intClear c t => Sys2Proof.Machine.execIntClear c t s
  | .nmiTrigger c => Sys2Proof.Machine.execNmiTrigger c s
  | .actLatchFromMain m => Sys2Proof.Machine.execActLatchFromMain m s
  | .actSendToMain m => Sys2Proof.Machine.execActSendToMain m s
  | .hsYield w => Sys2Proof.Machine.execHsYield w s
  | .schedSlice => Sys2Proof.Machine.execSchedSlice s
  | .schedFrame => Sys2Proof.Machine.execSchedFrame s
  | .compose => Sys2Proof.Machine.execCompose s
  | .tileResolve l cell => Sys2Proof.Machine.execTileResolve l cell s
  | .layerDraw l fs => Sys2Proof.Machine.execLayerDraw l fs s
  | .spriteDecode n => Sys2Proof.Machine.execSpriteDecode n s
  | .spriteDraw r fs => Sys2Proof.Machine.execSpriteDraw r fs s
  | .paletteResolve => Sys2Proof.Machine.execPaletteResolve s
  | .reset => Sys2Proof.Machine.execReset s
  | .configCheck => Sys2Proof.Machine.execConfigCheck s

end Sys2Proof.Machine
end

