-- ==== Sys2Proof/Machine/Fetch.lean ====
section
/-! DEFINITION. What the next step runs. An operation word in the slot runs first (log entry 4). Otherwise the phase
and the scheduler position decide (R300, R310, R311, R332): the configuration check; the opening of a slice; the next
line of the script; the end of a slice or of a frame. -/

namespace Sys2Proof.Machine

/-- The operation is enabled in the phase (R300, R332): only RESET and CONFIG.CHECK before the check has passed (log
entry 11). -/
def enabledIn (i : Instr) (p : Phase) : Bool :=
  match i with
  | .reset => true
  | .configCheck => true
  | _ => p == .running

/-- Runs the operation of an operation word. -/
def runSlot (bytes : List Byte) (s : State) : Host.Outcome State Fault Refusal :=
  match decode bytes with
  | some (i, _) => if enabledIn i s.phase then exec i s else .refused (phaseRefusal s.phase)
  | none => .refused .reservedKey

/-- The opening of the current slice (R311). -/
def stepOpen (s : State) : Host.Outcome State Fault Refusal :=
  if s.queryDue then exec (.intQuery s.turn false) s.opened else .next s.opened

/-- One step of the running scheduler. -/
def stepRunning (s : State) : Host.Outcome State Fault Refusal :=
  if s.cfg.slices ≤ s.round then exec .schedFrame s
  else if s.slicePos = .start then stepOpen s
  else match s.input with
    | w :: rest => if w = some .slice then exec .schedSlice s else s.midSlice w rest
    | [] => exec .schedSlice s

/-- One step of the block. -/
def stepBlock (s : State) : Host.Outcome State Fault Refusal :=
  match s.slot with
  | some bytes => runSlot bytes { s with slot := none }
  | none =>
    match s.phase with
    | .setup => exec .configCheck s
    | .configError => .refused .configError
    | .running => stepRunning s

/-- An operation that needs no RUNNING phase. -/
def setupOp (bytes : List Byte) : Bool :=
  match decode bytes with
  | some (.reset, _) => true
  | some (.configCheck, _) => true
  | _ => false

end Sys2Proof.Machine
end

