-- ==== Sys2Proof/Machine/Step.lean ====
section
/-! DEFINITION. One step, and the state whose next step runs a given operation word. -/

namespace Sys2Proof.Machine

/-- One step of the block. -/
def step (s : State) : Host.Outcome State Fault Refusal := stepBlock s

/-- The state with an operation word in the slot, so that the next step runs it. Every operation but RESET and
CONFIG.CHECK is enabled only while RUNNING (R300), so the phase is RUNNING for those (log entry 4). -/
def State.withFetchWord (s : State) (nbits w : Nat) : State :=
  { s with
    slot := some (tableBytes nbits w)
    phase := if setupOp (tableBytes nbits w) then s.phase else .running }

end Sys2Proof.Machine
end

