-- ==== Sys2Proof/Machine/Run.lean ====
section
/-! DEFINITION. A run (60_exceptions.md R318): RESET, CONFIG.CHECK, then F frames, with F a parameter of the run
(93_implementation_defined.md I21), and its observation. The block itself never stops: `step` goes on, and a run is
where the observer stops looking. -/

namespace Sys2Proof.Machine

/-- The machine as the host leaves it before RESET (R319, R332): the configuration loaded, and the script of the
transactions that the CPUs will present (log entries 1 and 6). -/
def State.loaded (cfg : Config) (script : List ScriptLine) : State := { State.reset with cfg := cfg, input := script }

/-- `SCHED.FRAME` repeated F times (R318). -/
def runFrames : Nat → State → Host.Outcome State Fault Refusal
  | 0, s => .next s
  | frames + 1, s =>
    match exec .schedFrame s with
    | .next t => runFrames frames t
    | .fault f => .fault f
    | .refused r => .refused r

/-- From the checked machine (R318): a configuration that failed ends the run at once, one that passed runs F frames. -/
def runChecked (frames : Nat) (s : State) : Host.Outcome State Fault Refusal :=
  match s.phase with
  | .running => runFrames frames s
  | .setup => .next s
  | .configError => .next s

/-- A run of F frames (R318). Lines of the script that stand after the F-th FRAME are left. -/
def run (cfg : Config) (script : List ScriptLine) (frames : Nat) : Host.Outcome State Fault Refusal :=
  match exec .reset (State.loaded cfg script) with
  | .next s =>
    match exec .configCheck s with
    | .next t => runChecked frames t
    | .fault f => .fault f
    | .refused r => .refused r
  | .fault f => .fault f
  | .refused r => .refused r

/-- The observation of a run (R318), oldest first. -/
structure Observation where
  /-- The `st.out` values, one per frame. -/
  frames : List (List (List Colour))
  /-- The values the read transactions returned, with the CPU that read. -/
  reads : List (Nat × Byte)
  /-- The `deliver(c, T)` events. -/
  deliveries : List (Nat × IntType)
  final : State
deriving DecidableEq, Repr

/-- A completed frame among the events. -/
def Obs.frame? : Obs → Option (List (List Colour))
  | .frame out => some out
  | _ => none

/-- A read's value among the events. -/
def Obs.read? : Obs → Option (Nat × Byte)
  | .read c v => some (c, v)
  | _ => none

/-- A delivery among the events; a query that answered none delivers nothing (R167). -/
def Obs.delivery? : Obs → Option (Nat × IntType)
  | .interrupt c (some t) => some (c, t)
  | _ => none

/-- The observation of the run that ended in s (R318; log entry 7). -/
def State.observation (s : State) : Observation where
  frames := s.trace.reverse.filterMap Obs.frame?
  reads := s.trace.reverse.filterMap Obs.read?
  deliveries := s.trace.reverse.filterMap Obs.delivery?
  final := s

/-- n steps of the block. -/
def steps : Nat → State → Host.Outcome State Fault Refusal
  | 0, s => .next s
  | n + 1, s =>
    match step s with
    | .next t => steps n t
    | .fault f => .fault f
    | .refused r => .refused r

end Sys2Proof.Machine
end

