-- ==== Sys2Proof/Safety.lean ====
section
/-! DEFINITION. What counts as a safe state and a safe step, in the terms the statements use: the parts of the state
and what it means to leave one as it was; the canonical form of every table; the invariant of the running block; and
CONFIG.CHECK as R300's table words it, check by check, beside the Bools that the meaning computes. -/

namespace Sys2Proof

/-- The operation of a port action (R206). -/
def PortAction.instr (m : Nat) : PortAction → Instr
  | .latchFromMain => .actLatchFromMain m
  | .sendToMain => .actSendToMain m

open Machine

/-! ### CONFIG.CHECK in the words of R300
What the model computes (Machine/Setup.lean), said a second time as propositions, rule by rule. -/

/-- An object that a check visits: an entry of CPU c's list, with the entries before it in that list; a bank; a
parameter. -/
inductive CheckObject where
  | entry (c : Nat) (dir : Dir) (before : List Entry) (e : Entry)
  | bank (k : Nat)
  | param (p : Param)
deriving DecidableEq, Repr

/-- The object as `st.error` names it (R305). -/
def CheckObject.reported : CheckObject → ErrObject
  | .entry c dir _ e => .entry c dir e.start e.stop
  | .bank k => .bank k
  | .param p => .param p

/-- The entries of a list, each with those before it. -/
def withBefore : List Entry → List Entry → List (List Entry × Entry)
  | _, [] => []
  | before, e :: rest => (before, e) :: withBefore (before ++ [e]) rest

/-- The entries in configuration order (log entry 9): CPU by CPU, the read map before the write map. -/
def entryObjects (cfg : Config) : List CheckObject :=
  (List.range cfg.cpus.length).flatMap fun c => [Dir.read, .write].flatMap fun dir =>
    (withBefore [] (cfg.map c dir)).map fun p => .entry c dir p.1 p.2

/-- The parameters of check 9 in the order of R7's table (log entry 9). -/
def paramOrder : List Param :=
  [.nCpu, .addrBits, .readMap, .writeMap, .shared, .slices, .queryPeriod, .intTypes, .intPriority, .polled, .irqenBit,
   .nmienBit, .handshakes, .mcuLinks, .soundDevices, .layers, .vregLayout, .vctrlIrq, .flipSourceLayer, .flipscreenBit,
   .sprites, .palette, .drawOrder]

/-- The codes in the order of R300's table. -/
def checkOrder : List CheckCode := [.tag, .direction, .role, .range, .overlap, .bounds, .bank, .shared, .param]

/-- The objects of a check in configuration order. -/
def checkObjects (cfg : Config) : CheckCode → List CheckObject
  | .tag => entryObjects cfg
  | .direction => entryObjects cfg
  | .role => entryObjects cfg
  | .range => entryObjects cfg
  | .overlap => entryObjects cfg
  | .bounds => entryObjects cfg
  | .bank => (List.range cfg.banks.length).map .bank
  | .shared => entryObjects cfg
  | .param => paramOrder.map .param

/-- "for each check k in the order below, for each object in configuration order" (R300). -/
def checkVisits (cfg : Config) : List (CheckCode × CheckObject) :=
  checkOrder.flatMap fun code => (checkObjects cfg code).map fun o => (code, o)

/-- Buffer b is of the kind and has a byte at the offset. -/
def Config.HasByteOf (cfg : Config) (b off : Nat) (kind : BufKind) : Prop :=
  ∃ buf, cfg.buffers[b]? = some buf ∧ buf.kind = kind ∧ off < buf.size

/-- CPU c is the primary of handshake h, its secondary; the primary of link m, its microcontroller. -/
def Config.HsPrimary (cfg : Config) (h c : Nat) : Prop := ∃ hc, cfg.handshakes[h]? = some hc ∧ hc.primary = c
/-- See `HsPrimary`. -/
def Config.HsSecondary (cfg : Config) (h c : Nat) : Prop := ∃ hc, cfg.handshakes[h]? = some hc ∧ hc.secondary = c
/-- See `HsPrimary`. -/
def Config.LinkPrimary (cfg : Config) (m c : Nat) : Prop := ∃ lc, cfg.links[m]? = some lc ∧ lc.primary = c
/-- See `HsPrimary`. -/
def Config.LinkMcu (cfg : Config) (m c : Nat) : Prop := ∃ lc, cfg.links[m]? = some lc ∧ lc.mcu = c

/-- A capability that a read map may not hold (R91: "read map: no"). -/
def Cap.WriteOnly (cap : Cap) : Prop :=
  (∃ k, cap = .banksel k) ∨ (∃ c line bit, cap = .irqen c line bit) ∨ (∃ c, cap = .nmien c) ∨
    (∃ c t, cap = .irqclr c t) ∨ (∃ m p, cap = .mcuDdr m p) ∨ ∃ l, cap = .vreg l

/-- A capability that a write map may not hold (R91: "write map: no", R93). -/
def Cap.ReadOnly (cfg : Config) (cap : Cap) : Prop :=
  (∃ b o, cap = .rom b o) ∨ (∃ h, cap = .hsStatus h) ∨ (∃ m, cap = .mcuStatus m) ∨ (∃ s, cap = .soundBusy s) ∨
    (∃ i, cap = .input i) ∨
    ∃ k bank buf, cap = .banked k ∧ cfg.banks[k]? = some bank ∧ cfg.buffers[bank.region]? = some buf ∧ buf.kind = .rom

/-- Entry e, after the entries before it in CPU c's list, fails a check of R300: codes 1 to 6 and 8. -/
def EntryFails (cfg : Config) (c : Nat) (dir : Dir) (before : List Entry) (e : Entry) : CheckCode → Prop
  | .tag => ∃ tag, e.cap = .reserved tag
  | .direction => (dir = .read ∧ Cap.WriteOnly e.cap) ∨ (dir = .write ∧ Cap.ReadOnly cfg e.cap)
  | .role =>
    (∃ h, (e.cap = .hsCmd h ∧ dir = .write ∨ e.cap = .hsRes h ∧ dir = .read) ∧ ¬cfg.HsPrimary h c) ∨
      (∃ h, (e.cap = .hsCmd h ∧ dir = .read ∨ e.cap = .hsRes h ∧ dir = .write) ∧ ¬cfg.HsSecondary h c) ∨
      (∃ h, e.cap = .hsStatus h ∧ ¬cfg.HsPrimary h c ∧ ¬cfg.HsSecondary h c) ∨
      (∃ m, (e.cap = .mcuData m ∨ e.cap = .mcuStatus m) ∧ ¬cfg.LinkPrimary m c) ∨
      ∃ m p, (e.cap = .mcuPort m p ∨ e.cap = .mcuDdr m p) ∧ ¬cfg.LinkMcu m c
  | .range => ¬(e.start ≤ e.stop ∧ ∃ cpu, cfg.cpus[c]? = some cpu ∧ e.stop ≤ 2 ^ cpu.addrBits - 1)
  | .overlap => ∃ x ∈ before, (x.start ≤ e.stop ∧ e.start ≤ x.stop) ∨ e.start < x.start
  | .bounds => ∃ b o,
    (e.cap = .ram b o ∧ ¬cfg.HasByteOf b (o + (e.stop - e.start)) .ram) ∨
      (e.cap = .rom b o ∧ ¬cfg.HasByteOf b (o + (e.stop - e.start)) .rom) ∨
      (e.cap = .palette b o ∧
        ¬∃ kind, cfg.HasByteOf b (o + (e.stop - e.start)) kind ∧ (dir = .write → kind = .ram))
  | .bank => False
  | .shared => ∃ r region buf, e.cap = .shared r ∧ cfg.shared[r]? = some region ∧
    cfg.buffers[region.buffer]? = some buf ∧ e.stop + 1 - e.start ≠ buf.size
  | .param => False

/-- Bank k meets the three conditions of R132. -/
def Config.BankOk (cfg : Config) (k : Nat) : Prop :=
  ∃ bank buf, cfg.banks[k]? = some bank ∧ cfg.buffers[bank.region]? = some buf ∧ (∃ n, bank.mask = 2 ^ n - 1) ∧
    bank.bankBase + (bank.mask + 1) * bank.bankSize ≤ buf.size ∧
    ∀ c dir e, e ∈ cfg.map c dir → e.cap = .banked k → e.stop + 1 - e.start = bank.bankSize

/-- CPU c has a polled line of that number. -/
def Config.LineExists (cfg : Config) (c line : Nat) : Prop :=
  ∃ cpu t, cfg.cpus[c]? = some cpu ∧ (line, t) ∈ cpu.polled

/-- CPU c exists and has the pending-NMI latch (R28). -/
def Config.Latched (cfg : Config) (c : Nat) : Prop := ∃ cpu, cfg.cpus[c]? = some cpu ∧ cpu.nmiLatch = true

/-- CPU c and type T exist. -/
def Config.TypeOn (cfg : Config) (c : Nat) (t : IntType) : Prop := c < cfg.cpus.length ∧ t ∈ cfg.intTypes

/-- The objects that a capability names exist (R91), as far as no earlier check asks for them (log entry 9). -/
def Config.RefsExist (cfg : Config) : Cap → Prop
  | .ram .. => True
  | .rom .. => True
  | .banked k => k < cfg.banks.length
  | .banksel k => k < cfg.banks.length
  | .shared r => r < cfg.shared.length
  | .irqen c line _ => cfg.LineExists c line
  | .nmien c => cfg.Latched c
  | .irqclr c t => cfg.TypeOn c t
  | .hsCmd _ => True
  | .hsRes _ => True
  | .hsStatus _ => True
  | .mcuData _ => True
  | .mcuStatus _ => True
  | .mcuPort .. => True
  | .mcuDdr .. => True
  | .sound s => s < cfg.sounds.length
  | .soundBusy s => s < cfg.sounds.length
  | .input _ => True
  | .vreg l => l < cfg.layers.length
  | .palette .. => True
  | .reserved _ => True

/-- The layer record meets the constraints of R251. -/
def LayerCfg.Ok (cfg : Config) (l : LayerCfg) : Prop :=
  1 ≤ l.cols ∧ 1 ≤ l.rows ∧ 1 ≤ l.tileW ∧ 1 ≤ l.tileH ∧ 1 ≤ l.numTiles ∧
    (l.scrollxBits = 8 ∨ l.scrollxBits = 9 ∧ l.scrollxHiBit < 8) ∧
    (∃ buf, cfg.buffers[l.tileRam]? = some buf ∧ buf.kind = .ram ∧
      ∀ cell < l.cols * l.rows, l.cellAttrAddr.apply [cell] < buf.size ∧ l.cellCodeAddr.apply [cell] < buf.size) ∧
    (∀ i < l.cols * l.rows, ∀ j < l.cols * l.rows,
      (l.cellAttrAddr.apply [i] = l.cellAttrAddr.apply [j] ∨ l.cellCodeAddr.apply [i] = l.cellCodeAddr.apply [j]) →
        i = j) ∧
    ∀ attr < 256, l.flipxFn.apply [attr] ≤ 1 ∧ l.flipyFn.apply [attr] ≤ 1

/-- The sprite record meets the constraints of R98 and R260. -/
def SpriteCfg.Ok (cfg : Config) (sp : SpriteCfg) : Prop :=
  let lay := sp.layout
  (∃ buf, cfg.buffers[sp.sprRam]? = some buf ∧ buf.kind = .ram ∧ sp.sprBase + sp.count * sp.stride ≤ buf.size) ∧
    4 ≤ sp.stride ∧ sp.stride ≤ 8 ∧ 1 ≤ sp.numSpriteTiles ∧
    (∀ f ∈ [lay.y, lay.codeLo, lay.xByte, lay.color, lay.flipX, lay.flipY, lay.size] ++ lay.codeHi.toList ++
      lay.xExt.toList ++ lay.prio.toList, f.byte < sp.stride ∧ f.lo + f.width ≤ 8) ∧
    (∀ f ∈ [lay.y, lay.codeLo, lay.xByte], f.width = 8) ∧ (∀ f ∈ [lay.flipX, lay.flipY] ++ lay.xExt.toList, f.width = 1) ∧
    lay.size.width = 2 ∧ sp.spriteOrder.Perm (List.range sp.count)

/-- The parameter is well formed: check 9 of R300, with the details of log entry 9. -/
def ParamOk (cfg : Config) : Param → Prop
  | .nCpu => 1 ≤ cfg.cpus.length
  | .addrBits => ∀ cpu ∈ cfg.cpus, 1 ≤ cpu.addrBits
  | .readMap => ∀ c, ∀ e ∈ cfg.map c .read, cfg.RefsExist e.cap
  | .writeMap => ∀ c, ∀ e ∈ cfg.map c .write, cfg.RefsExist e.cap
  | .shared => ∀ r region, cfg.shared[r]? = some region →
    ∃ buf, cfg.buffers[region.buffer]? = some buf ∧ buf.kind = .ram ∧
      ∀ o ∈ region.owners, o.cpu < cfg.cpus.length ∧ o.stop + 1 - o.start = buf.size ∧
        ∀ dir, ⟨o.start, o.stop, .shared r⟩ ∈ cfg.map o.cpu dir
  | .slices => 1 ≤ cfg.slices
  | .queryPeriod => ∀ cpu ∈ cfg.cpus, 1 ≤ cpu.queryPeriod
  | .intTypes => ∀ t ∈ [IntType.nmi, .firq, .irq, .irq1], t ∈ cfg.intTypes
  | .intPriority => cfg.intPriority.Nodup ∧ ∀ t, t ∈ cfg.intPriority ↔ t ∈ cfg.intTypes
  | .polled => ∀ cpu ∈ cfg.cpus, ∀ p ∈ cpu.polled, p.2 ∈ cfg.intTypes
  | .irqenBit => ∀ c dir, ∀ e ∈ cfg.map c dir, ∀ c' line bit, e.cap = .irqen c' line bit → bit < 8
  | .nmienBit => ∀ cpu ∈ cfg.cpus, cpu.nmiLatch = true → cpu.nmienBit < 8
  | .handshakes => ∀ hc ∈ cfg.handshakes, hc.primary < cfg.cpus.length ∧ hc.secondary < cfg.cpus.length ∧
    (∀ r, hc.cmdReadClear = some r → cfg.TypeOn r.cpu r.type) ∧
    (∀ a, hc.cmdEffect = .assert a → cfg.TypeOn a.cpu a.type) ∧ ∀ c, hc.cmdEffect = .nmiTrigger c → cfg.Latched c
  | .mcuLinks => ∀ lc ∈ cfg.links, lc.primary < cfg.cpus.length ∧ lc.mcu < cfg.cpus.length ∧
    (∀ g ∈ lc.triggers, g.bit < 8) ∧ lc.statusReadyBit < 8 ∧ lc.statusResultBit < 8 ∧
    lc.statusReadyBit ≠ lc.statusResultBit ∧
    (∀ a, (lc.mainWriteAssert = some a ∨ lc.sendAssert = some a) → cfg.TypeOn a.cpu a.type) ∧
    ∀ r, (lc.latchClear = some r ∨ lc.dataReadClear = some r) → cfg.TypeOn r.cpu r.type
  | .soundDevices => ∀ busyBit ∈ cfg.sounds, busyBit < 8
  | .layers => ∀ l ∈ cfg.layers, l.Ok cfg
  | .vregLayout => ∀ l ∈ cfg.layers, (l.vregLayout.map (·.1)).Nodup ∧ (l.vregLayout.map (·.2)).Nodup
  | .vctrlIrq => ∀ l ∈ cfg.layers, ∀ v, l.vctrlIrq = some v → cfg.LineExists v.cpu v.line ∧ v.bit < 8
  | .flipSourceLayer => cfg.flipSourceLayer < cfg.layers.length
  | .flipscreenBit => cfg.flipscreenBit < 8
  | .sprites => cfg.sprites.Ok cfg
  | .palette => 1 ≤ cfg.palette.paletteSize ∧ cfg.palette.bgPen < cfg.palette.paletteSize ∧
    ∀ i < cfg.palette.paletteSize, ∀ f ∈ [cfg.palette.decodeR, cfg.palette.decodeG, cfg.palette.decodeB],
      ∀ off ∈ f.reads (fun _ => 0) [i], ∃ kind, cfg.HasByteOf cfg.palette.buffer off kind
  | .drawOrder => ∀ item ∈ cfg.drawOrder, match item with
    | .layer l => l < cfg.layers.length
    | .sprites p => match cfg.sprites.layout.prio with
      | some f => ∃ n, p = some n ∧ n < 2 ^ f.width
      | none => p = none

/-- "the object fails k" (R300). -/
def CheckFails (cfg : Config) (code : CheckCode) : CheckObject → Prop
  | .entry c dir before e => EntryFails cfg c dir before e code
  | .bank k => code = .bank ∧ ¬cfg.BankOk k
  | .param p => code = .param ∧ ¬ParamOk cfg p

end Sys2Proof

namespace Sys2Proof.Machine

/-! ### Frames -/

/-- A part of the state that an operation may change. The assertions, the polled enables and the NMI latch of a CPU
(R26 to R28) are parts of their own, and so is each field of the scheduler position (R35). -/
inductive Part where
  | cfg | mem | bank | irqEn | asserted | nmiEn | nmiPending | hs | link | vreg | dirty | frame | round | turn | phase
  | yieldReq | fb | out | error | slicePos | draws | input | slot | trace
deriving DecidableEq, Repr

/-- State t has the part as s has it: a register array object by object, memory byte by byte. -/
def Part.same (s t : State) : Part → Prop
  | .cfg => t.cfg = s.cfg
  | .mem => ∀ b off, t.memRead b off = s.memRead b off
  | .bank => ∀ k, t.bankIdx k = s.bankIdx k
  | .irqEn => ∀ c line, t.irqEn c line = s.irqEn c line
  | .asserted => ∀ c ty, t.asserted c ty = s.asserted c ty
  | .nmiEn => ∀ c, t.nmiEn c = s.nmiEn c
  | .nmiPending => ∀ c, t.nmiPending c = s.nmiPending c
  | .hs => ∀ h, t.hsOf h = s.hsOf h
  | .link => ∀ m, t.linkOf m = s.linkOf m
  | .vreg => ∀ l, t.vregOf l = s.vregOf l
  | .dirty => ∀ l, t.dirtyOf l = s.dirtyOf l
  | .frame => t.frame = s.frame
  | .round => t.round = s.round
  | .turn => t.turn = s.turn
  | .phase => t.phase = s.phase
  | .yieldReq => t.yieldReq = s.yieldReq
  | .fb => t.fb = s.fb
  | .out => t.out = s.out
  | .error => t.error = s.error
  | .slicePos => t.slicePos = s.slicePos
  | .draws => t.draws = s.draws
  | .input => t.input = s.input
  | .slot => t.slot = s.slot
  | .trace => t.trace = s.trace

/-- t differs from s in the listed parts at most: the frame of an operation. -/
def Unchanged (s t : State) (except : List Part) : Prop := ∀ p, p ∉ except → Part.same s t p

/-! ### Canonical form -/

/-- Every table of the state is in canonical form (Machine/Sparse.lean), so that equal arrays are equal data. -/
def State.wf (s : State) : Bool :=
  Memory.wf s.cfg s.mem && Sparse.wf (fun _ => 0) s.bank &&
    Sparse.wf (fun _ => CpuIrq.reset) s.irq &&
    s.irq.all (fun p => Sparse.wf (fun _ => false) p.2.irqEn && Sparse.wf (fun _ => Assert.none) p.2.asserted) &&
    Sparse.wf (fun _ => HsRegs.reset) s.hs && Sparse.wf (fun _ => LinkRegs.reset) s.link &&
    Sparse.wf (fun _ => VregRegs.reset) s.vreg && Sparse.wf (fun _ => true) s.dirty

/-! ### The invariant -/

/-- What holds of the block between any two steps. -/
structure State.Inv (s : State) : Prop where
  /-- The tables are canonical. -/
  wf : s.wf = true
  /-- Only a configuration that passes the check runs (R300, R332). -/
  checked : s.phase = .running → checkConfig s.cfg = none
  /-- `st.error` is none in every phase but CONFIG_ERROR, and an error there (R300, R305). -/
  error : s.phase = .configError ↔ s.error ≠ none
  /-- `st.bank[k]` lies in `[0, mask(k)]` (R24). -/
  bank : ∀ k bank, s.cfg.banks[k]? = some bank → s.bankIdx k ≤ bank.mask
  /-- An NMI is pending only while NMIs are disabled (R162, R165). -/
  nmi : ∀ c, s.nmiPending c = true → s.nmiEn c = false
  /-- `st.turn` lies in `0 .. N_CPU - 1` (R35). -/
  turn : s.turn ≤ s.cfg.cpus.length - 1
  /-- `st.round` lies in `0 .. SLICES` (R35). -/
  round : s.round ≤ s.cfg.slices

/-! ### Outcomes -/

/-- The step ends in a fault. -/
def isFault (o : Host.Outcome State Fault Refusal) : Bool :=
  match o with
  | .fault _ => true
  | .next _ => false
  | .refused _ => false

/-- The refusals that the spec itself makes (R62, R102, R300, R311, R320): a configuration that failed its check, and
a script that is not one of the block's. -/
def Refusal.isSpecs (r : Refusal) : Bool :=
  decide (r = .configError ∨ r = .scriptInvalid ∨ r = .outsideSpace)

/-- Operations performed one after another, stopping at the first that does not answer a next state. -/
def execAll : List Instr → State → Host.Outcome State Fault Refusal
  | [], s => .next s
  | i :: is, s =>
    match exec i s with
    | .next t => execAll is t
    | .fault f => .fault f
    | .refused r => .refused r

/-- A line of the script that is a transaction of the current CPU, inside its address space (R62, R120, R311). -/
def State.presents (s : State) (w : ScriptLine) : Bool :=
  match w, s.cfg.cpus[s.turn]? with
  | some (.read c a), some cpu => c == s.turn && a < 2 ^ cpu.addrBits
  | some (.write c a _), some cpu => c == s.turn && a < 2 ^ cpu.addrBits
  | _, _ => false

end Sys2Proof.Machine
end

