-- ==== Sys2Proof/Certificates/Slice0/Obligations.lean ====
section
/-! DEFINITION. The statements for the provers, in the order of OBLIGATIONS.json. `Unchanged s t ps` is the frame: t
differs from s in the parts ps at most (Safety.lean); a part that an operation changes in one place is stated beside
it, object by object or byte by byte. A clause that rests on a choice of the model names the log entry. -/

section

open Sys2Proof Sys2Proof.Machine

/-! ### The step and the encodings -/

/-- A step runs the operation word in the slot: the operation that the word encodes, in the state without the word,
where the phase enables it (log entry 4: the operand bytes and the slot are the model's). -/
def Obligations.StepRunsSlotWord : Prop :=
  ∀ (s : State) (i : Instr) (rest : List Byte),
    i.wellFormed = true → s.slot = some (encode i ++ rest) → enabledIn i s.phase = true →
      step s = exec i { s with slot := none }

/-- A step in an open slice runs the transaction that the script holds next (R120): any CPU of the board, at any address
of its space (R60, R62), runs the operation that its map gives it, with the line taken off the script (log entry 6). -/
def Obligations.StepRunsTransaction : Prop :=
  ∀ (s : State) (rest : List ScriptLine) (cpu : CpuCfg) (dir : Dir) (a : Nat) (d : Byte) (i : Instr),
    s.slot = none → s.phase = .running → s.round < s.cfg.slices → s.slicePos ≠ .start → s.yieldReq = false →
    s.cfg.cpus[s.turn]? = some cpu → a < 2 ^ cpu.addrBits →
    s.input = some (match dir with
      | .read => .read s.turn a
      | .write => .write s.turn a d) :: rest →
    txnInstr s.cfg s.turn dir a d = some i →
      step s = exec i { s with slicePos := .afterTxn, input := rest }

/-- What a step runs otherwise (R300, R310, R311, R332; log entry 6): the check before anything else; the query that
opens a slice; an early query on the script's line; the end of a slice on a SLICE line or at the script's end; the
end of a frame after the last slice. -/
def Obligations.StepRunsScheduler : Prop :=
  ∀ s : State, s.slot = none →
    (s.phase = .setup → step s = exec .configCheck s) ∧
    (s.phase = .running → s.cfg.slices ≤ s.round → step s = exec .schedFrame s) ∧
    (s.phase = .running → s.round < s.cfg.slices →
      (∀ cpu rest, s.slicePos = .start → s.cfg.cpus[s.turn]? = some cpu →
        (s.input = some (.query s.turn) :: rest ∨
          (s.input = rest ∧ ∀ r, rest ≠ some (.query s.turn) :: r)) →
        s.round % cpu.queryPeriod = 0 →
          step s = exec (.intQuery s.turn false) { s with slicePos := .ready, input := rest }) ∧
      (∀ cpu, s.slicePos = .start → s.cfg.cpus[s.turn]? = some cpu → s.round % cpu.queryPeriod ≠ 0 →
        step s = .next { s with slicePos := .ready }) ∧
      (s.slicePos ≠ .start → s.input = [] → step s = exec .schedSlice s) ∧
      (∀ rest, s.slicePos ≠ .start → s.input = some .slice :: rest → step s = exec .schedSlice s) ∧
      (∀ rest, s.slicePos = .afterTxn → s.yieldReq = false → s.input = some (.query s.turn) :: rest →
          step s = exec (.intQuery s.turn true) { s with slicePos := .ready, input := rest }))

/-- A few words decode to what the spec writes beside them: lines of the programs P1 to P3 (95_test_vectors.md §4)
through the maps of TC1, and keys of R103. -/
def Obligations.DecodeWords : Prop :=
  decodeWord 0x100000201042 = some (.write 0 0x2010 0x42) ∧
  txnInstr Tc1.config 0 .write 0x2010 0x42 = some (.wrShared 0 0 0x10 0x42) ∧
  decodeWord 0x010000A00200 = some (.read 1 0xA002) ∧
  txnInstr Tc1.config 1 .read 0xA002 0 = some (.rdHsStatus 1 0) ∧
  decodeWord 0x120000000506 = some (.write 2 0x0005 0x06) ∧
  txnInstr Tc1.config 2 .write 0x0005 0x06 = some (.wrMcuDdr 2 0 .b 0x06) ∧
  decodeWord 0x000000440000 = some (.read 0 0x4400) ∧
  txnInstr Tc1.config 0 .read 0x4400 0 = some (.rdOpen 0 0x4400) ∧
  decodeWord 0x210000000000 = some (.query 1) ∧
  decodeWord 0x300000000000 = some .slice ∧ decodeWord 0x400000000000 = some .frame ∧
  decode [0x4A] = some (.compose, []) ∧ decode [0x58] = some (.reset, []) ∧ decode [0x59] = some (.configCheck, [])

/-- The operation word of every well-formed operation decodes to that operation, with nothing of what follows taken
(log entry 4). -/
def Obligations.DecodeEncode : Prop :=
  ∀ (i : Instr) (rest : List Byte), i.wellFormed = true → decode (encode i ++ rest) = some (i, rest)

/-- A list of bytes decodes only as the word of one well-formed operation: what the decoder takes is that operation's
encoding, byte for byte (log entry 4). -/
def Obligations.DecodeOnlyWords : Prop :=
  ∀ (bytes : List Byte) (i : Instr) (rest : List Byte),
    decode bytes = some (i, rest) → i.wellFormed = true ∧ bytes = encode i ++ rest

/-- The transaction word of R102: its four fields, the fields a kind has as 0, the reserved kinds, both round trips,
the rule's example, and a script written in words. That an event that does not fit the fields has no word is the model's
choice (log entry 20). -/
def Obligations.TransactionWord : Prop :=
  (∀ c a : Nat, c < 2 ^ 4 → a < 2 ^ 32 → ∀ d : Byte, ∃ r w q : TxnWord,
    encodeWord (.read c a) = some r ∧ encodeWord (.write c a d) = some w ∧ encodeWord (.query c) = some q ∧
    r.extractLsb' 44 4 = 0 ∧ r.extractLsb' 40 4 = BitVec.ofNat 4 c ∧ r.extractLsb' 8 32 = BitVec.ofNat 32 a ∧
    r.extractLsb' 0 8 = 0 ∧
    w.extractLsb' 44 4 = 1 ∧ w.extractLsb' 40 4 = BitVec.ofNat 4 c ∧ w.extractLsb' 8 32 = BitVec.ofNat 32 a ∧
    w.extractLsb' 0 8 = d ∧
    q.extractLsb' 44 4 = 2 ∧ q.extractLsb' 40 4 = BitVec.ofNat 4 c ∧ q.extractLsb' 0 40 = 0) ∧
  encodeWord .slice = some 0x300000000000 ∧ encodeWord .frame = some 0x400000000000 ∧
  (∀ (e : BusEvent) (w : TxnWord), encodeWord e = some w ↔ decodeWord w = some e) ∧
  (∀ e : BusEvent, (encodeWord e).isSome = e.wellFormed) ∧
  (∀ w : TxnWord, 5 ≤ (w.extractLsb' 44 4).toNat → decodeWord w = none) ∧
  encodeWord (.write 0 0x2010 0x42) = some 0x100000201042 ∧
  (∀ es : List BusEvent, (∀ e ∈ es, e.wellFormed = true) →
    ∃ ws : List TxnWord, es.map encodeWord = ws.map some ∧ scriptOfWords ws = es.map some)

/-- The decode key and the operands (R91, R92, R103, R120, R230): a transaction selects the operation whose key is
`(dir << 7) | tag`, with the tag of the entry found, 0x00 where none is; its operands are the presenting CPU, the
arguments of the entry, the window offset `a - e.start` where the rule reads it, and the byte of a write; a write to a
video register block is the operation of the field that the layout names at the offset, WR.VREG where it names none. No
operation word begins with a key that R92 reserves. -/
def Obligations.DecodeKey : Prop :=
  (∀ (cfg : Config) (c : Nat) (dir : Dir) (a : Nat) (d : Byte) (i : Instr), txnInstr cfg c dir a d = some i →
    i.key.toNat = decodeKey dir (match lookup (cfg.map c dir) a with
      | some e => e.cap.tag
      | none => 0x00)) ∧
  (∀ (cfg : Config) (c a : Nat) (d : Byte),
    let reads : Cap → (Nat → Instr) → Prop := fun cap i =>
      ∀ e, lookup (cfg.map c .read) a = some e → e.cap = cap → txnInstr cfg c .read a d = some (i (a - e.start))
    let writes : Cap → (Nat → Instr) → Prop := fun cap i =>
      ∀ e, lookup (cfg.map c .write) a = some e → e.cap = cap → txnInstr cfg c .write a d = some (i (a - e.start))
    (∀ b o, reads (.ram b o) (fun off => .rdRam c b o off) ∧ writes (.ram b o) (fun off => .wrRam c b o off d) ∧
      reads (.rom b o) (fun off => .rdRom c b o off) ∧
      reads (.palette b o) (fun off => .rdPalette c b o off) ∧
      writes (.palette b o) (fun off => .wrPalette c b o off d)) ∧
    (∀ k, reads (.banked k) (fun off => .rdBank c k off) ∧ writes (.banked k) (fun off => .wrBank c k off d) ∧
      writes (.banksel k) (fun _ => .wrBanksel c k d)) ∧
    (∀ r, reads (.shared r) (fun off => .rdShared c r off) ∧ writes (.shared r) (fun off => .wrShared c r off d)) ∧
    (∀ c' line bit, writes (.irqen c' line bit) (fun _ => .wrIrqen c c' line bit d)) ∧
    (∀ c', writes (.nmien c') (fun _ => .wrNmien c c' d)) ∧
    (∀ c' ty, writes (.irqclr c' ty) (fun _ => .wrIrqclr c c' ty d)) ∧
    (∀ h, reads (.hsCmd h) (fun _ => .rdHsCmd c h) ∧ writes (.hsCmd h) (fun _ => .wrHsCmd c h d) ∧
      reads (.hsRes h) (fun _ => .rdHsRes c h) ∧ writes (.hsRes h) (fun _ => .wrHsRes c h d) ∧
      reads (.hsStatus h) (fun _ => .rdHsStatus c h)) ∧
    (∀ m, reads (.mcuData m) (fun _ => .rdMcuData c m) ∧ writes (.mcuData m) (fun _ => .wrMcuData c m d) ∧
      reads (.mcuStatus m) (fun _ => .rdMcuStatus c m) ∧
      ∀ p, reads (.mcuPort m p) (fun _ => .rdMcuPort c m p) ∧ writes (.mcuPort m p) (fun _ => .wrMcuPort c m p d) ∧
        writes (.mcuDdr m p) (fun _ => .wrMcuDdr c m p d)) ∧
    (∀ dev, reads (.sound dev) (fun off => .rdSound c dev off) ∧ writes (.sound dev) (fun off => .wrSound c dev off d) ∧
      reads (.soundBusy dev) (fun _ => .rdSoundBusy c dev)) ∧
    (∀ i0, reads (.input i0) (fun off => .rdInput c i0 off)) ∧
    (∀ l layer e, cfg.layers[l]? = some layer → lookup (cfg.map c .write) a = some e → e.cap = .vreg l →
      ((∀ f, (a - e.start, f) ∉ layer.vregLayout) →
        txnInstr cfg c .write a d = some (.wrVreg c l (a - e.start) d)) ∧
      (∀ f, (a - e.start, f) ∈ layer.vregLayout → (∀ f', (a - e.start, f') ∈ layer.vregLayout → f' = f) →
        txnInstr cfg c .write a d = some (match f with
          | .scrollxLo => .wrVregScrollxLo c l d
          | .scrollxHi => .wrVregScrollxHi c l d
          | .scrolly => .wrVregScrolly c l d
          | .bank => .wrVregBank c l d
          | .ctrl => .wrVregCtrl c l d)))) ∧
  (∀ (key : Byte) (bytes : List Byte),
    ((0xC0 ≤ key ∨ (0x60 ≤ key ∧ key < 0x80)) ∨ ((0x15 ≤ key ∧ key < 0x40) ∨ (0x95 ≤ key ∧ key < 0xC0))) →
      decode (key :: bytes) = none)

/-- Lookup (R121): the first entry that covers the address, or none where no entry does; and under a checked
configuration it is the only one. -/
def Obligations.LookupFindsTheEntry : Prop :=
  (∀ (map : List Entry) (a : Nat) (e : Entry), lookup map a = some e →
    ∃ before after, map = before ++ e :: after ∧ e.start ≤ a ∧ a ≤ e.stop ∧
      ∀ x ∈ before, ¬(x.start ≤ a ∧ a ≤ x.stop)) ∧
  (∀ (map : List Entry) (a : Nat), lookup map a = none ↔ ∀ e ∈ map, ¬(e.start ≤ a ∧ a ≤ e.stop)) ∧
  (∀ (cfg : Config) (c : Nat) (dir : Dir), checkConfig cfg = none →
    (cfg.map c dir).Pairwise (fun x e => x.start ≤ e.start) ∧
    ∀ (a : Nat) (e : Entry), e ∈ cfg.map c dir → e.start ≤ a → a ≤ e.stop → lookup (cfg.map c dir) a = some e)

/-! ### Decoder, memory, banks, shared memory (40_decoder.md) -/

/-- Open bus (R122, R123, R302): an address without an entry selects RD.OPEN or WR.OPEN; the read returns `OPEN_BUS[c]`
and changes nothing, the write changes nothing. -/
def Obligations.OpenBus : Prop :=
  (∀ (s : State) (c a : Nat) (cpu : CpuCfg), s.cfg.cpus[c]? = some cpu →
    ∃ t, exec (.rdOpen c a) s = .next t ∧ t.trace = .read c cpu.openBus :: s.trace ∧ Unchanged s t [.trace]) ∧
  (∀ (s : State) (c a : Nat) (d : Byte), exec (.wrOpen c a d) s = .next s) ∧
  (∀ (cfg : Config) (c a : Nat) (d : Byte), (∀ e ∈ cfg.map c .read, ¬(e.start ≤ a ∧ a ≤ e.stop)) →
    txnInstr cfg c .read a d = some (.rdOpen c a)) ∧
  (∀ (cfg : Config) (c a : Nat) (d : Byte), (∀ e ∈ cfg.map c .write, ¬(e.start ≤ a ∧ a ≤ e.stop)) →
    txnInstr cfg c .write a d = some (.wrOpen c a d))

/-- RD.RAM, RD.ROM and RD.PALETTE return byte `o + off` of the buffer and change nothing; a byte of ROM is its image,
whatever has been written (R125, R127, R239). -/
def Obligations.PlainReads : Prop :=
  ∀ (s : State) (c b o off : Nat), s.cfg.hasByte b (o + off) = true →
    (∀ i ∈ [Instr.rdRam c b o off, .rdRom c b o off, .rdPalette c b o off],
      ∃ t, exec i s = .next t ∧ t.trace = .read c (s.memRead b (o + off)) :: s.trace ∧ Unchanged s t [.trace]) ∧
    (∀ buf, s.cfg.buffers[b]? = some buf → buf.kind = .rom →
      s.memRead b (o + off) = BitVec.ofNat 8 (buf.image.apply [o + off]))

/-- WR.RAM (R126): byte `o + off` of the buffer is the written byte, every other byte is as it was, and the dirty flag
of every layer whose tile RAM the buffer is becomes 1, no other. -/
def Obligations.WriteRam : Prop :=
  ∀ (s : State) (c b o off : Nat) (d : Byte), s.cfg.hasByte b (o + off) = true → s.cfg.isRam b = true →
    ∃ t, exec (.wrRam c b o off d) s = .next t ∧
      t.memRead b (o + off) = d ∧
      (∀ b' off', (b', off') ≠ (b, o + off) → t.memRead b' off' = s.memRead b' off') ∧
      (∀ (l : Nat) (layer : LayerCfg), s.cfg.layers[l]? = some layer → layer.tileRam = b → t.dirtyOf l = true) ∧
      (∀ l : Nat, (∀ layer, s.cfg.layers[l]? = some layer → layer.tileRam ≠ b) → t.dirtyOf l = s.dirtyOf l) ∧
      Unchanged s t [.mem, .dirty]

/-- WR.BANK, WR.SHARED and WR.PALETTE (R130, R134, R238) store the byte at the offset their rule computes, and nowhere
else; a write of a layer's tile RAM, by whichever of these rules and whatever byte it held, sets the layer's dirty flag,
and no other flag changes (R33, R75, R237; log entry 10). -/
def Obligations.WindowStores : Prop :=
  ∀ (s : State) (c : Nat) (d : Byte) (i : Instr) (b off : Nat),
    ((∃ k woff bank, i = .wrBank c k woff d ∧ s.cfg.banks[k]? = some bank ∧ b = bank.region ∧
        off = bank.bankBase + s.bankIdx k * bank.bankSize + woff) ∨
      (∃ r woff region, i = .wrShared c r woff d ∧ s.cfg.shared[r]? = some region ∧ b = region.buffer ∧ off = woff) ∨
      (∃ o woff, i = .wrPalette c b o woff d ∧ off = o + woff)) →
    s.cfg.hasByte b off = true → s.cfg.isRam b = true →
    ∃ t, exec i s = .next t ∧
      t.memRead b off = d ∧
      (∀ b' off', (b', off') ≠ (b, off) → t.memRead b' off' = s.memRead b' off') ∧
      (∀ (l : Nat) (layer : LayerCfg), s.cfg.layers[l]? = some layer → layer.tileRam = b → t.dirtyOf l = true) ∧
      (∀ l : Nat, (∀ layer, s.cfg.layers[l]? = some layer → layer.tileRam ≠ b) → t.dirtyOf l = s.dirtyOf l) ∧
      Unchanged s t [.mem, .dirty]

/-- A write whose operands name a byte of a ROM buffer leaves every byte as it was (R23, R128: no rule writes ROM; that
such a write goes on is the model's choice, log entry 8). -/
def Obligations.RomIsNeverWritten : Prop :=
  ∀ (s : State) (c o off : Nat) (d : Byte) (b : Nat), s.cfg.hasByte b (o + off) = true → s.cfg.isRam b = false →
    (∀ i ∈ [Instr.wrRam c b o off d, .wrPalette c b o off d],
      ∃ t, exec i s = .next t ∧ Unchanged s t [.dirty]) ∧
    (∀ k bank woff, s.cfg.banks[k]? = some bank → bank.region = b →
      o + off = bank.bankBase + s.bankIdx k * bank.bankSize + woff →
        ∃ t, exec (.wrBank c k woff d) s = .next t ∧ Unchanged s t [.dirty]) ∧
    (∀ r region, s.cfg.shared[r]? = some region → region.buffer = b →
      ∃ t, exec (.wrShared c r (o + off) d) s = .next t ∧ Unchanged s t [.dirty])

/-- A memory operation whose operands name a byte outside its buffer faults (R9 requires `off < size(b)`; the fault is
the model's, log entry 8). -/
def Obligations.OutsideABufferFaults : Prop :=
  (∀ (s : State) (c b o off : Nat) (d : Byte), s.cfg.hasByte b (o + off) = false →
    ∀ i ∈ [Instr.rdRam c b o off, .wrRam c b o off d, .rdRom c b o off, .rdPalette c b o off, .wrPalette c b o off d],
      exec i s = .fault .noSuchByte) ∧
  (∀ (s : State) (c k off : Nat) (d : Byte) (bank : BankCfg), s.cfg.banks[k]? = some bank →
    s.cfg.hasByte bank.region (bank.bankBase + s.bankIdx k * bank.bankSize + off) = false →
      exec (.rdBank c k off) s = .fault .noSuchByte ∧ exec (.wrBank c k off d) s = .fault .noSuchByte) ∧
  (∀ (s : State) (c r off : Nat) (d : Byte) (region : SharedCfg), s.cfg.shared[r]? = some region →
    s.cfg.hasByte region.buffer off = false →
      exec (.rdShared c r off) s = .fault .noSuchByte ∧ exec (.wrShared c r off d) s = .fault .noSuchByte)

/-- An operation is refused where its operands name a CPU (the one that RD.OPEN reads for, or the one the operation acts
on), a polled line, a type, a bank, a region, a handshake, a link, a device, a layer or a sprite entry that the
configuration does not have: the model's choice, log entry 8. An absent buffer faults instead (OutsideABufferFaults), and
the CPU that presents another operation is not looked up. -/
def Obligations.AbsentObjectsRefused : Prop :=
  ∀ (s : State) (c x off : Nat) (d : Byte) (t : IntType) (m : AssertMode) (p : Port) (fs : Bool),
    (s.cfg.cpus.length ≤ c → ∀ i ∈ [Instr.rdOpen c off, .wrNmien x c d, .wrIrqclr x c t d, .intQuery c fs,
      .intAssert c t m, .intClear c t, .nmiTrigger c, .hsYield c, .wrIrqen x c off 0 d],
        exec i s = .refused .noSuchObject) ∧
    (∀ cpu bit, s.cfg.cpus[c]? = some cpu → (∀ ty, (off, ty) ∉ cpu.polled) →
      exec (.wrIrqen x c off bit d) s = .refused .noSuchObject) ∧
    (s.cfg.hasType t = false → ∀ i ∈ [Instr.wrIrqclr x c t d, .intAssert c t m, .intClear c t],
      exec i s = .refused .noSuchObject) ∧
    (s.cfg.banks.length ≤ x → ∀ i ∈ [Instr.rdBank c x off, .wrBank c x off d, .wrBanksel c x d],
      exec i s = .refused .noSuchObject) ∧
    (s.cfg.shared.length ≤ x → ∀ i ∈ [Instr.rdShared c x off, .wrShared c x off d],
      exec i s = .refused .noSuchObject) ∧
    (s.cfg.handshakes.length ≤ x →
      ∀ i ∈ [Instr.wrHsCmd c x d, .rdHsCmd c x, .wrHsRes c x d, .rdHsRes c x, .rdHsStatus c x],
        exec i s = .refused .noSuchObject) ∧
    (s.cfg.links.length ≤ x → ∀ i ∈ [Instr.wrMcuData c x d, .rdMcuData c x, .rdMcuStatus c x, .wrMcuDdr c x p d,
      .wrMcuPort c x p d, .rdMcuPort c x p, .actLatchFromMain x, .actSendToMain x],
        exec i s = .refused .noSuchObject) ∧
    (s.cfg.sounds.length ≤ x → ∀ i ∈ [Instr.wrSound c x off d, .rdSound c x off, .rdSoundBusy c x],
      exec i s = .refused .noSuchObject) ∧
    (s.cfg.layers.length ≤ x → ∀ i ∈ [Instr.wrVreg c x off d, .wrVregScrollxLo c x d, .wrVregScrollxHi c x d,
      .wrVregScrolly c x d, .wrVregBank c x d, .wrVregCtrl c x d, .tileResolve x off, .layerDraw x fs],
        exec i s = .refused .noSuchObject) ∧
    (s.cfg.sprites.count ≤ x → exec (.spriteDecode x) s = .refused .noSuchObject)

/-- RD.BANK (R129): the byte at `bankBase + st.bank[k] * bankSize + off` of the region, and nothing changes; and the
rule's property: a bank-select write of v, then a read of the window by any CPU, returns the byte at
`base + (v & mask) * bankSize + offset`, for every offset. -/
def Obligations.BankedRead : Prop :=
  ∀ (s : State) (c k off : Nat) (bank : BankCfg), s.cfg.banks[k]? = some bank →
    (s.cfg.hasByte bank.region (bank.bankBase + s.bankIdx k * bank.bankSize + off) = true →
      ∃ t, exec (.rdBank c k off) s = .next t ∧
        t.trace = .read c (s.memRead bank.region (bank.bankBase + s.bankIdx k * bank.bankSize + off)) :: s.trace ∧
        Unchanged s t [.trace]) ∧
    (∀ (w : Nat) (v : Byte),
      s.cfg.hasByte bank.region (bank.bankBase + (v.toNat &&& bank.mask) * bank.bankSize + off) = true →
      ∃ t, execAll [.wrBanksel w k v, .rdBank c k off] s = .next t ∧
        t.trace = .read c (s.memRead bank.region
          (bank.bankBase + (v.toNat &&& bank.mask) * bank.bankSize + off)) :: s.trace)

/-- WR.BANKSEL (R131): the bank register is `d & mask(k)`, at most `mask(k)`; every other bank register is as it
was. -/
def Obligations.BankSelect : Prop :=
  ∀ (s : State) (c k : Nat) (d : Byte) (bank : BankCfg), s.cfg.banks[k]? = some bank →
    ∃ t, exec (.wrBanksel c k d) s = .next t ∧ t.bankIdx k = d.toNat &&& bank.mask ∧ t.bankIdx k ≤ bank.mask ∧
      (∀ k', k' ≠ k → t.bankIdx k' = s.bankIdx k') ∧ Unchanged s t [.bank]

/-- Shared memory (R133 to R135): a read returns the byte at the window offset and changes nothing; a byte that one
CPU writes at an offset of the region is what the next read of that offset by any CPU returns; and the offset, not the
address, identifies the byte. -/
def Obligations.SharedMemory : Prop :=
  ∀ (s : State) (r x : Nat) (region : SharedCfg), s.cfg.shared[r]? = some region →
    s.cfg.hasByte region.buffer x = true → s.cfg.isRam region.buffer = true →
    (∀ c, ∃ t, exec (.rdShared c r x) s = .next t ∧ t.trace = .read c (s.memRead region.buffer x) :: s.trace ∧
      Unchanged s t [.trace]) ∧
    (∀ (cA cB : Nat) (eA eB : Entry) (v : Byte),
      lookup (s.cfg.map cA .write) (eA.start + x) = some eA → eA.cap = .shared r →
      lookup (s.cfg.map cB .read) (eB.start + x) = some eB → eB.cap = .shared r →
      ∃ i j t u, txnInstr s.cfg cA .write (eA.start + x) v = some i ∧
        txnInstr s.cfg cB .read (eB.start + x) 0 = some j ∧
        exec i s = .next t ∧ exec j t = .next u ∧ u.trace = .read cB v :: s.trace)

/-- Forwarding (R140 to R143): a sound write is recorded as an event and changes no block state; a sound read, a busy
read (the drawn bit at `BUSY_BIT`, the others 0) and an input read return a draw, a free value, and change no block
state (log entry 5: the draw counter advances). -/
def Obligations.SoundAndInput : Prop :=
  ∀ (s : State) (c dev off : Nat),
    (∀ (d : Byte), dev < s.cfg.sounds.length → ∃ t, exec (.wrSound c dev off d) s = .next t ∧
      t.trace = .soundWrite dev off d :: s.trace ∧ Unchanged s t [.trace]) ∧
    (dev < s.cfg.sounds.length → ∃ t, exec (.rdSound c dev off) s = .next t ∧
      t.trace = .read c (Config.drawSoundRead dev off s.draws) :: s.trace ∧ t.draws = s.draws + 1 ∧
      Unchanged s t [.trace, .draws]) ∧
    (∀ busyBit, s.cfg.sounds[dev]? = some busyBit → ∃ t v, exec (.rdSoundBusy c dev) s = .next t ∧
      t.trace = .read c v :: s.trace ∧
      (∀ i, i < 8 → v.getLsbD i = (decide (i = busyBit) && Config.drawSoundBusy dev s.draws)) ∧
      t.draws = s.draws + 1 ∧ Unchanged s t [.trace, .draws]) ∧
    (∀ i0, ∃ t, exec (.rdInput c i0 off) s = .next t ∧
      t.trace = .read c (Config.drawInputPort (i0 + off) s.draws) :: s.trace ∧ t.draws = s.draws + 1 ∧
      Unchanged s t [.trace, .draws])

/-! ### Interrupts (41_interrupts.md) -/

/-- WR.IRQEN (R161): the enable flag of the line is the designated bit of the byte; every other flag is as it was. -/
def Obligations.InterruptEnable : Prop :=
  ∀ (s : State) (w c line bit : Nat) (d : Byte) (cpu : CpuCfg) (t : IntType),
    s.cfg.cpus[c]? = some cpu → (line, t) ∈ cpu.polled →
    ∃ u, exec (.wrIrqen w c line bit d) s = .next u ∧ u.irqEn c line = d.getLsbD bit ∧
      (∀ c' line', (c', line') ≠ (c, line) → u.irqEn c' line' = s.irqEn c' line') ∧ Unchanged s u [.irqEn]

/-- WR.NMIEN (R162): the enable is the designated bit; enabling with an NMI pending clears the latch and asserts one
pulse; otherwise the latch and the line are as they were. R162 speaks of a CPU with NMI_LATCH; that a CPU without it
does the same is the model's choice (log entry 16). -/
def Obligations.NmiEnable : Prop :=
  ∀ (s : State) (w c : Nat) (d : Byte) (cpu : CpuCfg), s.cfg.cpus[c]? = some cpu →
    ∃ t, exec (.wrNmien w c d) s = .next t ∧ t.nmiEn c = d.getLsbD cpu.nmienBit ∧
      (∀ c', c' ≠ c → t.nmiEn c' = s.nmiEn c' ∧ t.nmiPending c' = s.nmiPending c') ∧
      (d.getLsbD cpu.nmienBit = true → s.nmiPending c = true →
        t.nmiPending c = false ∧ t.asserted c .nmi = Assert.max (s.asserted c .nmi) .pulse ∧
        (∀ c' ty, (c', ty) ≠ (c, .nmi) → t.asserted c' ty = s.asserted c' ty) ∧
        Unchanged s t [.nmiEn, .nmiPending, .asserted]) ∧
      (¬(d.getLsbD cpu.nmienBit = true ∧ s.nmiPending c = true) → Unchanged s t [.nmiEn])

/-- INT.ASSERT, INT.CLEAR and WR.IRQCLR (R163, R164, R166): the line becomes the greater of what it held and the mode,
NONE < PULSE < LEVEL, or NONE; every other line is as it was. -/
def Obligations.AssertAndClear : Prop :=
  ∀ (s : State) (c : Nat) (ty : IntType), s.cfg.hasCpu c = true → s.cfg.hasType ty = true →
    (∀ mode, ∃ t, exec (.intAssert c ty mode) s = .next t ∧
      t.asserted c ty = (if mode = .level ∨ s.asserted c ty = .level then .level else .pulse) ∧
      (∀ c' ty', (c', ty') ≠ (c, ty) → t.asserted c' ty' = s.asserted c' ty') ∧ Unchanged s t [.asserted]) ∧
    (∀ (w : Nat) (d : Byte), ∀ i ∈ [Instr.intClear c ty, .wrIrqclr w c ty d], ∃ t, exec i s = .next t ∧
      t.asserted c ty = .none ∧
      (∀ c' ty', (c', ty') ≠ (c, ty) → t.asserted c' ty' = s.asserted c' ty') ∧ Unchanged s t [.asserted])

/-- NMI.TRIGGER (R165): with NMIs enabled, one pulse on the line; else the one-deep latch is set and no line changes.
R165's target has NMI_LATCH; that a CPU without it does the same is the model's choice (log entry 16). -/
def Obligations.NmiTrigger : Prop :=
  ∀ (s : State) (c : Nat), s.cfg.hasCpu c = true →
    ∃ t, exec (.nmiTrigger c) s = .next t ∧
      (s.nmiEn c = true → t.asserted c .nmi = Assert.max (s.asserted c .nmi) .pulse ∧
        (∀ c' ty, (c', ty) ≠ (c, .nmi) → t.asserted c' ty = s.asserted c' ty) ∧ Unchanged s t [.asserted]) ∧
      (s.nmiEn c = false → t.nmiPending c = true ∧ (∀ c', c' ≠ c → t.nmiPending c' = s.nmiPending c') ∧
        Unchanged s t [.nmiPending])

/-- INT.QUERY (R167 to R169, R307): without a candidate, none is returned and nothing changes; else the greatest
candidate under `INT_PRIORITY` is delivered, its PULSE cleared, and nothing else changes: no mask, no enable, no other
line. An early query has the asserted lines alone as candidates. -/
def Obligations.Query : Prop :=
  ∀ (s : State) (c : Nat) (early : Bool) (cpu : CpuCfg), s.cfg.cpus[c]? = some cpu →
    let cand : IntType → Prop := fun ty =>
      (early = false ∧ ∃ line, (line, ty) ∈ cpu.polled ∧ s.irqEn c line = true) ∨ s.asserted c ty ≠ .none
    ((∀ ty ∈ s.cfg.intPriority, ¬cand ty) →
      ∃ t, exec (.intQuery c early) s = .next t ∧ t.trace = .interrupt c none :: s.trace ∧ Unchanged s t [.trace]) ∧
    (∀ higher ty lower, s.cfg.intPriority = higher ++ ty :: lower → (∀ u ∈ higher, ¬cand u) → cand ty →
      ∃ t, exec (.intQuery c early) s = .next t ∧ t.trace = .interrupt c (some ty) :: s.trace ∧
        t.asserted c ty = (if s.asserted c ty = .pulse then .none else s.asserted c ty) ∧
        (∀ c' ty', (c', ty') ≠ (c, ty) → t.asserted c' ty' = s.asserted c' ty') ∧
        Unchanged s t [.trace, .asserted])

/-- The pending-NMI property (R172): from NMIs disabled, none pending, none asserted, n triggers, then an enable, then
q queries deliver NMI once where n and q are at least 1 and never where one is 0; right after the enable the line
holds one PULSE where n is at least 1. NMI is the greatest of `INT_PRIORITY`, and no polled line of the CPU offers
NMI, so that the queries see this NMI and no other. R172 speaks of a CPU with NMI_LATCH; that one without it does the
same is the model's choice (log entry 16). -/
def Obligations.PendingNmi : Prop :=
  ∀ (s : State) (w c n q : Nat) (d : Byte) (cpu : CpuCfg) (lower : List IntType),
    s.cfg.cpus[c]? = some cpu → s.cfg.intPriority = .nmi :: lower →
    (∀ line, (line, IntType.nmi) ∉ cpu.polled) →
    s.nmiEn c = false → s.nmiPending c = false → s.asserted c .nmi = .none → d.getLsbD cpu.nmienBit = true →
    ∃ t u, execAll (List.replicate n (.nmiTrigger c) ++ [.wrNmien w c d]) s = .next t ∧
      t.asserted c .nmi = (if n = 0 then .none else .pulse) ∧ t.nmiPending c = false ∧ t.nmiEn c = true ∧
      execAll (List.replicate q (.intQuery c false)) t = .next u ∧
      u.trace.count (.interrupt c (some .nmi)) =
        s.trace.count (.interrupt c (some .nmi)) + (if n = 0 ∨ q = 0 then 0 else 1)

/-! ### Handshake and microcontroller link (42_handshake.md) -/

/-- WR.HS_CMD (R190, R195, R196): the command byte, pending-for-secondary set, the result and the other pending bit
kept; then the configured effect; then the yield where delivery is synchronous. -/
def Obligations.WriteCommand : Prop :=
  ∀ (s : State) (w h : Nat) (d : Byte) (hc : HandshakeCfg), s.cfg.handshakes[h]? = some hc →
    ∃ t, exec (.wrHsCmd w h d) s = .next t ∧
      (t.hsOf h).cmd = d ∧ (t.hsOf h).res = (s.hsOf h).res ∧ (t.hsOf h).pend.getLsbD 0 = true ∧
      (t.hsOf h).pend.getLsbD 1 = (s.hsOf h).pend.getLsbD 1 ∧
      (∀ h', h' ≠ h → t.hsOf h' = s.hsOf h') ∧
      t.yieldReq = (s.yieldReq || hc.syncDelivery) ∧
      (hc.cmdEffect = .none → Unchanged s t [.hs, .yieldReq]) ∧
      (∀ a, hc.cmdEffect = .assert a →
        (∀ c ty, t.asserted c ty = if c = a.cpu ∧ ty = a.type then
          Assert.max (s.asserted c ty) (Assert.ofMode a.mode) else s.asserted c ty) ∧
        Unchanged s t [.hs, .yieldReq, .asserted]) ∧
      (∀ c, hc.cmdEffect = .nmiTrigger c →
        (s.nmiEn c = true →
          (∀ c' ty, t.asserted c' ty = if c' = c ∧ ty = .nmi then
            Assert.max (s.asserted c' ty) .pulse else s.asserted c' ty) ∧
          Unchanged s t [.hs, .yieldReq, .asserted]) ∧
        (s.nmiEn c = false →
          (∀ c', t.nmiPending c' = (s.nmiPending c' || decide (c' = c))) ∧
          Unchanged s t [.hs, .yieldReq, .nmiPending]))

/-- RD.HS_CMD (R191): the command byte is returned and kept, pending-for-secondary is cleared, and the line of
`CMD_READ_CLEAR`, where there is one. -/
def Obligations.ReadCommand : Prop :=
  ∀ (s : State) (c h : Nat) (hc : HandshakeCfg), s.cfg.handshakes[h]? = some hc →
    ∃ t, exec (.rdHsCmd c h) s = .next t ∧ t.trace = .read c (s.hsOf h).cmd :: s.trace ∧
      (t.hsOf h).cmd = (s.hsOf h).cmd ∧ (t.hsOf h).res = (s.hsOf h).res ∧
      (t.hsOf h).pend.getLsbD 0 = false ∧ (t.hsOf h).pend.getLsbD 1 = (s.hsOf h).pend.getLsbD 1 ∧
      (∀ h', h' ≠ h → t.hsOf h' = s.hsOf h') ∧
      (∀ c' ty, t.asserted c' ty = if hc.cmdReadClear = some ⟨c', ty⟩ then .none else s.asserted c' ty) ∧
      Unchanged s t [.trace, .hs, .asserted]

/-- WR.HS_RES and RD.HS_RES (R192, R193): the result byte with pending-for-primary set; the same byte returned with
the bit cleared. The command, its bit and every other handshake are as they were. -/
def Obligations.ResultByte : Prop :=
  ∀ (s : State) (c h : Nat), h < s.cfg.handshakes.length →
    (∀ d : Byte, ∃ t, exec (.wrHsRes c h d) s = .next t ∧ (t.hsOf h).res = d ∧ (t.hsOf h).cmd = (s.hsOf h).cmd ∧
      (t.hsOf h).pend.getLsbD 1 = true ∧ (t.hsOf h).pend.getLsbD 0 = (s.hsOf h).pend.getLsbD 0 ∧
      (∀ h', h' ≠ h → t.hsOf h' = s.hsOf h') ∧ Unchanged s t [.hs]) ∧
    (∃ t, exec (.rdHsRes c h) s = .next t ∧ t.trace = .read c (s.hsOf h).res :: s.trace ∧
      (t.hsOf h).res = (s.hsOf h).res ∧ (t.hsOf h).cmd = (s.hsOf h).cmd ∧
      (t.hsOf h).pend.getLsbD 1 = false ∧ (t.hsOf h).pend.getLsbD 0 = (s.hsOf h).pend.getLsbD 0 ∧
      (∀ h', h' ≠ h → t.hsOf h' = s.hsOf h') ∧ Unchanged s t [.trace, .hs])

/-- RD.HS_STATUS (R94, R194): the two pending bits, bits 7..2 zero, XORed with `INVERT_MASK(h)`; nothing changes. -/
def Obligations.HandshakeStatus : Prop :=
  ∀ (s : State) (c h : Nat) (hc : HandshakeCfg), s.cfg.handshakes[h]? = some hc →
    ∃ t v, exec (.rdHsStatus c h) s = .next t ∧ t.trace = .read c v :: s.trace ∧
      v ^^^ hc.invertMask = 0#6 ++ (s.hsOf h).pend ∧ Unchanged s t [.trace]

/-- HS.YIELD (R195): the current slice must end after this transaction. Nothing else changes. -/
def Obligations.Yield : Prop :=
  ∀ (s : State) (w : Nat), s.cfg.hasCpu w = true →
    ∃ t, exec (.hsYield w) s = .next t ∧ t.yieldReq = true ∧ Unchanged s t [.yieldReq]

/-- The round trip (R199): after a command write of v, the first read of the command and every further one return v;
the bit is clear from the first read on, and a further read changes nothing. -/
def Obligations.HandshakeRoundTrip : Prop :=
  ∀ (s : State) (w c h n : Nat) (v : Byte), h < s.cfg.handshakes.length →
    ∃ t u, execAll (.wrHsCmd w h v :: List.replicate (n + 1) (.rdHsCmd c h)) s = .next t ∧
      t.trace = List.replicate (n + 1) (.read c v) ++ s.trace ∧ (t.hsOf h).pend.getLsbD 0 = false ∧
      exec (.rdHsCmd c h) t = .next u ∧ u.trace = .read c v :: t.trace ∧ Unchanged t u [.trace]

/-- WR.MCU_DATA, RD.MCU_DATA and RD.MCU_STATUS (R95, R200 to R202): the primary's byte and its flag, with the configured
assertion; the microcontroller's byte returned, its flag and the configured line cleared; the status byte. -/
def Obligations.McuData : Prop :=
  ∀ (s : State) (w m : Nat) (lc : LinkCfg), s.cfg.links[m]? = some lc →
    (∀ d : Byte, ∃ t, exec (.wrMcuData w m d) s = .next t ∧
      t.linkOf m = { s.linkOf m with fromMain := d, mainSent := true } ∧
      (∀ m', m' ≠ m → t.linkOf m' = s.linkOf m') ∧
      (lc.mainWriteAssert = none → Unchanged s t [.link]) ∧
      (∀ a, lc.mainWriteAssert = some a →
        (∀ c ty, t.asserted c ty = if c = a.cpu ∧ ty = a.type then
          Assert.max (s.asserted c ty) (Assert.ofMode a.mode) else s.asserted c ty) ∧
        Unchanged s t [.link, .asserted])) ∧
    (∃ t, exec (.rdMcuData w m) s = .next t ∧ t.trace = .read w (s.linkOf m).fromMcu :: s.trace ∧
      t.linkOf m = { s.linkOf m with mcuSent := false } ∧ (∀ m', m' ≠ m → t.linkOf m' = s.linkOf m') ∧
      (∀ c ty, t.asserted c ty = if lc.dataReadClear = some ⟨c, ty⟩ then .none else s.asserted c ty) ∧
      Unchanged s t [.trace, .link, .asserted]) ∧
    (lc.statusReadyBit < 8 → lc.statusResultBit < 8 → lc.statusReadyBit ≠ lc.statusResultBit →
      ∃ t v, exec (.rdMcuStatus w m) s = .next t ∧ t.trace = .read w v :: s.trace ∧
        (∀ i, i < 8 → (v ^^^ lc.statusInvert).getLsbD i =
          (if i = lc.statusReadyBit then !(s.linkOf m).mainSent
            else if i = lc.statusResultBit then (s.linkOf m).mcuSent else false)) ∧
        Unchanged s t [.trace])

/-- WR.MCU_DDR (R203): the port's data-direction register is the byte; no port action, whatever the gated output does;
every other register of the link and every other link are as they were. -/
def Obligations.WriteDdr : Prop :=
  ∀ (s : State) (u m : Nat) (d : Byte), m < s.cfg.links.length →
    (∃ t, exec (.wrMcuDdr u m .a d) s = .next t ∧ t.linkOf m = { s.linkOf m with ddrA := d } ∧
      (∀ m', m' ≠ m → t.linkOf m' = s.linkOf m') ∧ Unchanged s t [.link]) ∧
    (∃ t, exec (.wrMcuDdr u m .b d) s = .next t ∧ t.linkOf m = { s.linkOf m with ddrB := d } ∧
      (∀ m', m' ≠ m → t.linkOf m' = s.linkOf m') ∧ Unchanged s t [.link])

/-- WR.MCU_PORT (R204): only latch bits whose DDR bit is 1 take the byte; a port A write does nothing more; a port B
write then performs, in table order, the actions of the triggers whose edge the gated output `latch & ddr` made. -/
def Obligations.WritePort : Prop :=
  ∀ (s : State) (u m : Nat) (d : Byte) (lc : LinkCfg), s.cfg.links[m]? = some lc →
    let r := s.linkOf m
    let latchB := (r.latchB &&& ~~~r.ddrB) ||| (d &&& r.ddrB)
    let old := r.latchB &&& r.ddrB
    let new := latchB &&& r.ddrB
    (∃ t, exec (.wrMcuPort u m .a d) s = .next t ∧
      t.linkOf m = { r with latchA := (r.latchA &&& ~~~r.ddrA) ||| (d &&& r.ddrA) } ∧
      (∀ m', m' ≠ m → t.linkOf m' = s.linkOf m') ∧ Unchanged s t [.link]) ∧
    (∃ t, exec (.wrMcuPort u m .b d) s = .next t ∧
      execAll ((lc.triggers.filter (fun g =>
          (decide (g.edge = .falling) && old.getLsbD g.bit && !new.getLsbD g.bit) ||
            (decide (g.edge = .rising) && !old.getLsbD g.bit && new.getLsbD g.bit))).map
        (fun g => g.action.instr m)) (s.setLink m { r with latchB := latchB }) = .next t ∧
      (t.linkOf m).latchB = latchB ∧ (t.linkOf m).latchA = r.latchA ∧ (t.linkOf m).ddrA = r.ddrA ∧
      (t.linkOf m).ddrB = r.ddrB ∧ (t.linkOf m).fromMain = r.fromMain ∧
      (∀ m', m' ≠ m → t.linkOf m' = s.linkOf m') ∧ Unchanged s t [.link, .asserted])

/-- RD.MCU_PORT (R205): the latch bits of output pins and the input bits of input pins; port A's input is `portA_in`,
port B's is a draw, a free value (log entry 5: the draw counter advances). -/
def Obligations.ReadPort : Prop :=
  ∀ (s : State) (u m : Nat), m < s.cfg.links.length →
    let r := s.linkOf m
    (∃ t, exec (.rdMcuPort u m .a) s = .next t ∧
      t.trace = .read u ((r.latchA &&& r.ddrA) ||| (r.portAIn &&& ~~~r.ddrA)) :: s.trace ∧ Unchanged s t [.trace]) ∧
    (∃ t, exec (.rdMcuPort u m .b) s = .next t ∧
      t.trace = .read u ((r.latchB &&& r.ddrB) ||| (Config.drawPortBIn m s.draws &&& ~~~r.ddrB)) :: s.trace ∧
      t.draws = s.draws + 1 ∧ Unchanged s t [.trace, .draws])

/-- ACT.LATCH_FROM_MAIN and ACT.SEND_TO_MAIN (R207, R208): the primary's byte taken, its flag and the configured line
cleared; port A's pin value sent, the flag set and the configured line asserted. -/
def Obligations.PortActions : Prop :=
  ∀ (s : State) (m : Nat) (lc : LinkCfg), s.cfg.links[m]? = some lc →
    let r := s.linkOf m
    (∃ t, exec (.actLatchFromMain m) s = .next t ∧
      t.linkOf m = { r with portAIn := r.fromMain, mainSent := false } ∧
      (∀ m', m' ≠ m → t.linkOf m' = s.linkOf m') ∧
      (∀ c ty, t.asserted c ty = if lc.latchClear = some ⟨c, ty⟩ then .none else s.asserted c ty) ∧
      Unchanged s t [.link, .asserted]) ∧
    (∃ t, exec (.actSendToMain m) s = .next t ∧
      t.linkOf m = { r with fromMcu := (r.latchA &&& r.ddrA) ||| (r.portAIn &&& ~~~r.ddrA), mcuSent := true } ∧
      (∀ m', m' ≠ m → t.linkOf m' = s.linkOf m') ∧
      (lc.sendAssert = none → Unchanged s t [.link]) ∧
      (∀ a, lc.sendAssert = some a →
        (∀ c ty, t.asserted c ty = if c = a.cpu ∧ ty = a.type then
          Assert.max (s.asserted c ty) (Assert.ofMode a.mode) else s.asserted c ty) ∧
        Unchanged s t [.link, .asserted]))

/-- The DDR property (R209): after a write of d with DDR r over latch x, the latch is `(x & ~r) | (d & r)`, and a read
that follows returns `(d & r) | (in & ~r)`: port A's input is `portA_in`, port B's a draw. -/
def Obligations.DdrProperty : Prop :=
  ∀ (s : State) (u m : Nat) (d : Byte) (lc : LinkCfg), s.cfg.links[m]? = some lc →
    let r := s.linkOf m
    (∃ t v, execAll [.wrMcuPort u m .a d, .rdMcuPort u m .a] s = .next t ∧
      (t.linkOf m).latchA = (r.latchA &&& ~~~r.ddrA) ||| (d &&& r.ddrA) ∧ t.trace = .read u v :: s.trace ∧
      v = (d &&& r.ddrA) ||| (r.portAIn &&& ~~~r.ddrA)) ∧
    (∃ t v, execAll [.wrMcuPort u m .b d, .rdMcuPort u m .b] s = .next t ∧
      (t.linkOf m).latchB = (r.latchB &&& ~~~r.ddrB) ||| (d &&& r.ddrB) ∧ t.trace = .read u v :: s.trace ∧
      v = (d &&& r.ddrB) ||| (Config.drawPortBIn m s.draws &&& ~~~r.ddrB))

/-! ### Video registers (43_video_registers.md) -/

/-- The five video register writes (R231 to R235): the named register is the byte, the layer's others and every other
layer's are as they were; a bank-select write marks the layer dirty, whatever the byte; a control write also writes
the layer's interrupt-enable bit, where it carries one. -/
def Obligations.VideoRegisters : Prop :=
  ∀ (s : State) (w l : Nat) (d : Byte) (layer : LayerCfg), s.cfg.layers[l]? = some layer →
    (∃ t, exec (.wrVregScrollxLo w l d) s = .next t ∧ t.vregOf l = { s.vregOf l with scrollXlo := d } ∧
      (∀ l', l' ≠ l → t.vregOf l' = s.vregOf l') ∧ Unchanged s t [.vreg]) ∧
    (∃ t, exec (.wrVregScrollxHi w l d) s = .next t ∧ t.vregOf l = { s.vregOf l with scrollXhi := d } ∧
      (∀ l', l' ≠ l → t.vregOf l' = s.vregOf l') ∧ Unchanged s t [.vreg]) ∧
    (∃ t, exec (.wrVregScrolly w l d) s = .next t ∧ t.vregOf l = { s.vregOf l with scrollY := d } ∧
      (∀ l', l' ≠ l → t.vregOf l' = s.vregOf l') ∧ Unchanged s t [.vreg]) ∧
    (∃ t, exec (.wrVregBank w l d) s = .next t ∧ t.vregOf l = { s.vregOf l with vbank := d } ∧
      (∀ l', l' ≠ l → t.vregOf l' = s.vregOf l') ∧ t.dirtyOf l = true ∧
      (∀ l', l' ≠ l → t.dirtyOf l' = s.dirtyOf l') ∧ Unchanged s t [.vreg, .dirty]) ∧
    (∃ t, exec (.wrVregCtrl w l d) s = .next t ∧ t.vregOf l = { s.vregOf l with vctrl := d } ∧
      (∀ l', l' ≠ l → t.vregOf l' = s.vregOf l') ∧
      (layer.vctrlIrq = none → Unchanged s t [.vreg]) ∧
      (∀ v, layer.vctrlIrq = some v → t.irqEn v.cpu v.line = d.getLsbD v.bit ∧
        (∀ c line, (c, line) ≠ (v.cpu, v.line) → t.irqEn c line = s.irqEn c line) ∧ Unchanged s t [.vreg, .irqEn]))

/-- WR.VREG (R230): the operation of the field that `VREG_LAYOUT[l]` names at the offset; an offset it does not name
changes nothing. -/
def Obligations.VideoRegisterBlock : Prop :=
  ∀ (s : State) (w l off : Nat) (d : Byte) (layer : LayerCfg), s.cfg.layers[l]? = some layer →
    ((∀ f, (off, f) ∉ layer.vregLayout) → exec (.wrVreg w l off d) s = .next s) ∧
    (∀ f, (off, f) ∈ layer.vregLayout → (∀ f', (off, f') ∈ layer.vregLayout → f' = f) →
      ∃ t, exec (.wrVreg w l off d) s = .next t ∧
        exec (match f with
          | .scrollxLo => .wrVregScrollxLo w l d
          | .scrollxHi => .wrVregScrollxHi w l d
          | .scrolly => .wrVregScrolly w l d
          | .bank => .wrVregBank w l d
          | .ctrl => .wrVregCtrl w l d) s = .next t)

/-! ### Compositor (44_compositor.md) -/

/-- TILE.RESOLVE (R97, R254, R270): the tile number is `min(idx + 256 * bank, NUM_TILES - 1)`, the colour and flips come
from the attribute byte; nothing changes. -/
def Obligations.TileResolve : Prop :=
  ∀ (s : State) (l cell : Nat) (layer : LayerCfg), s.cfg.layers[l]? = some layer →
    let attr := (s.memRead layer.tileRam (layer.cellAttrAddr.apply [cell])).toNat
    let idx := (s.memRead layer.tileRam (layer.cellCodeAddr.apply [cell])).toNat
    let bank := layer.bankFn.apply [attr, (s.vregOf l).vbank.toNat]
    ∃ t info, exec (.tileResolve l cell) s = .next t ∧ t.trace = .tile info :: s.trace ∧ Unchanged s t [.trace] ∧
      info.tile = min (idx + 256 * bank) (layer.numTiles - 1) ∧ info.color = layer.colorFn.apply [attr] ∧
      (info.flipX = true ↔ layer.flipxFn.apply [attr] = 1) ∧ (info.flipY = true ↔ layer.flipyFn.apply [attr] = 1)

/-- LAYER.DRAW (R99, R258, R259, R266): every pixel of the screen shows the layer pixel that scroll and screen flip
give, wrapped at the layer's size, through the tile's own flips; a transparent pen leaves the pixel; the index is
clamped. Nothing but the frame buffer changes. -/
def Obligations.LayerDraw : Prop :=
  ∀ (s : State) (l : Nat) (fs : Bool) (layer : LayerCfg), s.cfg.layers[l]? = some layer →
    let regs := s.vregOf l
    let scrollx := if layer.scrollxBits = 9 then
        regs.scrollXlo.toNat ||| (if regs.scrollXhi.getLsbD layer.scrollxHiBit then 1 else 0) <<< 8
      else regs.scrollXlo.toNat
    ∃ t, exec (.layerDraw l fs) s = .next t ∧ Unchanged s t [.fb] ∧
      ∀ sx sy, sx < s.cfg.screenW → sy < s.cfg.screenH →
        let ex := if fs then s.cfg.screenW - 1 - sx else sx
        let ey := if fs then s.cfg.screenH - 1 - sy else sy
        let lx := (ex + scrollx) % (layer.cols * layer.tileW)
        let ly := (ey + regs.scrollY.toNat) % (layer.rows * layer.tileH)
        let info := s.tileInfo l layer ((ly / layer.tileH) * layer.cols + lx / layer.tileW)
        let u := if info.flipX then layer.tileW - 1 - lx % layer.tileW else lx % layer.tileW
        let v := if info.flipY then layer.tileH - 1 - ly % layer.tileH else ly % layer.tileH
        let pen := s.cfg.gfx.apply [layer.gfxSet, info.tile, u, v]
        pixelAt t.fb sx sy =
          if layer.transp = .pen pen then pixelAt s.fb sx sy
          else min (layer.colorBase + info.color * s.cfg.palette.pensPerColor + pen) (s.cfg.palette.paletteSize - 1)

/-- SPRITE.DECODE (R98, R261, R262): an entry whose raw Y byte is the sentinel is skipped, whatever its other fields;
else its fields, the code from a low and a high field, the X from a byte and an extension bit read as a ninth bit or a
sign. Nothing changes. R98 makes the flips one bit and the size two; that wider fields count by their lowest one and two
bits is the model's choice (log entry 17). -/
def Obligations.SpriteDecode : Prop :=
  ∀ (s : State) (i : Nat), i < s.cfg.sprites.count →
    let sp := s.cfg.sprites
    let field : SpriteField → Nat := fun f =>
      (s.memRead sp.sprRam (sp.sprBase + i * sp.stride + f.byte)).toNat >>> f.lo % 2 ^ f.width
    let opt : Option SpriteField → Nat := fun o => (o.map field).getD 0
    ∃ t ans, exec (.spriteDecode i) s = .next t ∧ t.trace = .sprite ans :: s.trace ∧ Unchanged s t [.trace] ∧
      (sp.offscreenY = some (field sp.layout.y) → ans = none) ∧
      (sp.offscreenY ≠ some (field sp.layout.y) → ∃ r, ans = some r ∧
        r.code = field sp.layout.codeLo ||| opt sp.layout.codeHi <<< 8 ∧
        (s.cfg.xExtMode = .ninthBit → r.x = (field sp.layout.xByte : Int) + 256 * opt sp.layout.xExt) ∧
        (s.cfg.xExtMode = .sign → r.x = (field sp.layout.xByte : Int) - 256 * opt sp.layout.xExt) ∧
        r.y = field sp.layout.y ∧ r.color = field sp.layout.color ∧
        (r.flipX = true ↔ field sp.layout.flipX % 2 = 1) ∧ (r.flipY = true ↔ field sp.layout.flipY % 2 = 1) ∧
        r.size.val = field sp.layout.size % 4 ∧ r.prio = opt sp.layout.prio)

/-- SPRITE.DRAW (R263 to R266): a pixel inside the sprite's rectangle shows the pixel of the sub-tile that covers it,
arrangement and sub-tile both mirrored by a flip, unless its pen is transparent; every other pixel is as it was; pixels
off the screen are dropped. Under screen flip the position is `maxCoord - pos` with the size class's correction and
both flips are inverted. Nothing but the frame buffer changes. -/
def Obligations.SpriteDraw : Prop :=
  ∀ (s : State) (r : SpriteRec) (fs : Bool),
    let sp := s.cfg.sprites
    let X : Int := if fs then sp.flipMaxX - r.x + (sp.corr r.size).1 else r.x
    let Y : Int := if fs then sp.flipMaxY - r.y + (sp.corr r.size).2 else r.y
    let fx := if fs then !r.flipX else r.flipX
    let fy := if fs then !r.flipY else r.flipY
    let cols : Nat := if r.size = 2 ∨ r.size = 3 then 2 else 1
    let rows : Nat := if r.size = 1 ∨ r.size = 3 then 2 else 1
    ∃ t, exec (.spriteDraw r fs) s = .next t ∧ Unchanged s t [.fb] ∧
      ∀ sx sy : Nat, sx < s.cfg.screenW → sy < s.cfg.screenH →
        (¬(X ≤ sx ∧ (sx : Int) < X + 16 * cols ∧ Y ≤ sy ∧ (sy : Int) < Y + 16 * rows) →
          pixelAt t.fb sx sy = pixelAt s.fb sx sy) ∧
        (∀ dx dy : Nat, (sx : Int) = X + dx → (sy : Int) = Y + dy → dx < 16 * cols → dy < 16 * rows →
          let i := if fx then cols - 1 - dx / 16 else dx / 16
          let j := if fy then rows - 1 - dy / 16 else dy / 16
          let pu := if fx then 15 - dx % 16 else dx % 16
          let pv := if fy then 15 - dy % 16 else dy % 16
          let code := min (r.code + sp.subtile r.size j i) (sp.numSpriteTiles - 1)
          let pen := s.cfg.gfx.apply [sp.sprGfxSet, code, pu, pv]
          pixelAt t.fb sx sy =
            if pen = sp.sprTranspPen then pixelAt s.fb sx sy
            else min (sp.sprColorBase + r.color * s.cfg.palette.pensPerColor + pen) (s.cfg.palette.paletteSize - 1))

/-- COMPOSE and PALETTE.RESOLVE (R252, R255, R267, R268): every pixel of the output is the frame buffer's index decoded
from the palette buffer as it stands; COMPOSE stores it as `st.out`, clears every dirty flag, and changes nothing but
those and the frame buffer. -/
def Obligations.FrameOutput : Prop :=
  ∀ s : State,
    let rd : Nat → Byte := fun off => s.memRead s.cfg.palette.buffer off
    let decoded : Nat → Colour := fun index =>
      ⟨s.cfg.palette.decodeR.eval rd [index], s.cfg.palette.decodeG.eval rd [index],
        s.cfg.palette.decodeB.eval rd [index]⟩
    (∃ t out, exec .compose s = .next t ∧ t.out = some out ∧ t.trace = .frame out :: s.trace ∧
      (∀ x y, x < s.cfg.screenW → y < s.cfg.screenH →
        (out[y]?.bind (·[x]?)) = some (decoded (pixelAt t.fb x y))) ∧
      (∀ l, t.dirtyOf l = (s.dirtyOf l && decide (s.cfg.layers.length ≤ l))) ∧
      Unchanged s t [.fb, .out, .dirty, .trace]) ∧
    (∃ t out, exec .paletteResolve s = .next t ∧ t.trace = .colours out :: s.trace ∧
      (∀ x y, x < s.cfg.screenW → y < s.cfg.screenH →
        (out[y]?.bind (·[x]?)) = some (decoded (pixelAt s.fb x y))) ∧
      Unchanged s t [.trace])

/-- COMPOSE draws in the order of R252 (R269, R271): the frame buffer it leaves is that of the background fill followed
by LAYER.DRAW and SPRITE.DRAW, item by item of `DRAW_ORDER`, the sprites of an item in `SPRITE_ORDER`, those not
skipped and of its priority: with `PRIO_FIELD` the entries whose `prio` is the item's group, without it every entry for
`ALL`. -/
def Obligations.ComposeOrder : Prop :=
  ∀ s : State, (∀ l, DrawItem.layer l ∈ s.cfg.drawOrder → l < s.cfg.layers.length) →
    let fs := (s.vregOf s.cfg.flipSourceLayer).vctrl.getLsbD s.cfg.flipscreenBit
    let prioMatch : SpriteRec → Option Nat → Bool := fun r p =>
      if s.cfg.sprites.layout.prio.isSome then p = some r.prio else p = none
    let draws : DrawItem → List Instr := fun item => match item with
      | .layer l => [.layerDraw l fs]
      | .sprites p => s.cfg.sprites.spriteOrder.filterMap fun n =>
        (s.decodeSprite n).bind fun r => if prioMatch r p then some (.spriteDraw r fs) else none
    ∃ t u, exec .compose s = .next t ∧
      execAll (s.cfg.drawOrder.flatMap draws)
        { s with fb := List.replicate s.cfg.screenH (List.replicate s.cfg.screenW s.cfg.palette.bgPen) } = .next u ∧
      t.fb = u.fb

/-- The dirty flags cannot be observed (R33, R255): whatever their values, a composition gives the same frame buffer and
the same output. -/
def Obligations.DirtyIsHidden : Prop :=
  ∀ (s : State) (d : Table Bool), ∃ t u, exec .compose s = .next t ∧ exec .compose { s with dirty := d } = .next u ∧
    u.fb = t.fb ∧ u.out = t.out ∧ u.trace = t.trace

/-! ### Configuration check, scheduler, reset (60_exceptions.md, 70_reset_and_hazards.md) -/

/-- CONFIG.CHECK (R300, R305): in SETUP, a configuration that passes starts the machine and one that fails stops it with
the error recorded; nothing else changes. In another phase it is refused. -/
def Obligations.ConfigCheck : Prop :=
  ∀ s : State,
    (s.phase = .setup → checkConfig s.cfg = none →
      ∃ t, exec .configCheck s = .next t ∧ t.phase = .running ∧ Unchanged s t [.phase]) ∧
    (∀ e, s.phase = .setup → checkConfig s.cfg = some e →
      ∃ t, exec .configCheck s = .next t ∧ t.phase = .configError ∧ t.error = some e ∧
        Unchanged s t [.phase, .error]) ∧
    (s.phase = .running → exec .configCheck s = .refused .notEnabled) ∧
    (s.phase = .configError → exec .configCheck s = .refused .configError)

/-- What a configuration that passes guarantees (R24, R90, R124, R132, R133, R300): entries in their CPU's space, no
two of a list overlapping, plain memory inside its buffer, every bank index the mask admits inside the region, the
windows of banks and shared regions of their lengths, no ROM behind a write entry; and every transaction inside the
CPU's space selects an operation. That a PALETTE entry of a write map has a RAM buffer is the model's choice (log entry
9). -/
def Obligations.CheckedConfiguration : Prop :=
  ∀ cfg : Config, checkConfig cfg = none →
    (∀ (c : Nat) (dir : Dir) (cpu : CpuCfg) (e : Entry), cfg.cpus[c]? = some cpu → e ∈ cfg.map c dir →
      e.start ≤ e.stop ∧ e.stop < 2 ^ cpu.addrBits ∧
      (∀ b o, (e.cap = .ram b o ∨ e.cap = .rom b o ∨ e.cap = .palette b o) →
        cfg.hasByte b (o + (e.stop - e.start)) = true) ∧
      (∀ b o, dir = .write → (e.cap = .ram b o ∨ e.cap = .palette b o) → cfg.isRam b = true) ∧
      (∀ b o, dir = .write → e.cap ≠ .rom b o) ∧
      (∀ k, e.cap = .banked k → ∃ bank, cfg.banks[k]? = some bank ∧ e.stop - e.start + 1 = bank.bankSize ∧
        (dir = .write → cfg.isRam bank.region = true)) ∧
      (∀ r, e.cap = .shared r → ∃ region buf, cfg.shared[r]? = some region ∧
        cfg.buffers[region.buffer]? = some buf ∧ buf.kind = .ram ∧ e.stop - e.start + 1 = buf.size)) ∧
    (∀ (c : Nat) (dir : Dir), (cfg.map c dir).Pairwise (fun x y => x.stop < y.start)) ∧
    (∀ (k : Nat) (bank : BankCfg), cfg.banks[k]? = some bank →
      ∀ index off, index ≤ bank.mask → off < bank.bankSize →
        cfg.hasByte bank.region (bank.bankBase + index * bank.bankSize + off) = true) ∧
    (∀ (c : Nat) (dir : Dir) (a : Nat) (d : Byte), ∃ i, txnInstr cfg c dir a d = some i)

/-- SCHED.SLICE (R311): a slice that has not opened makes its query where its round is due one; an open one performs the
script's next line, a transaction of the current CPU at any address of its space, as its map selects it, or an early query
after one (R169), and goes on; where the environment ends it (a SLICE line, or the script's end: log entry 6), the turn
passes to the next CPU in index order, after the last to the first with the round counted, and the yield request is
cleared. A line of another CPU, any line but SLICE after a yield, a FRAME line and a word that is none of R102's make the
script invalid. Refused outside RUNNING and after the frame's last slice. -/
def Obligations.Slice : Prop :=
  ∀ s : State,
    (∀ rest, s.phase = .running → s.round < s.cfg.slices → s.turn < s.cfg.cpus.length → s.slicePos ≠ .start →
      ((s.input = [] ∧ rest = []) ∨ s.input = some .slice :: rest) →
      ∃ t, exec .schedSlice s = .next t ∧
        t.turn = (if s.turn + 1 = s.cfg.cpus.length then 0 else s.turn + 1) ∧
        t.round = (if s.turn + 1 = s.cfg.cpus.length then s.round + 1 else s.round) ∧
        t.yieldReq = false ∧ t.input = rest ∧ t.slicePos = .start ∧
        Unchanged s t [.turn, .round, .yieldReq, .input, .slicePos]) ∧
    (∀ cpu rest, s.phase = .running → s.round < s.cfg.slices → s.cfg.cpus[s.turn]? = some cpu → s.slicePos = .start →
      ((s.round % cpu.queryPeriod = 0 ∧ s.input = some (.query s.turn) :: rest) ∨
        (s.input = rest ∧ (s.round % cpu.queryPeriod = 0 → ∀ r, rest ≠ some (.query s.turn) :: r))) →
      exec .schedSlice s =
        execAll (if s.round % cpu.queryPeriod = 0 then [.intQuery s.turn false, .schedSlice] else [.schedSlice])
          { s with slicePos := .ready, input := rest }) ∧
    (∀ (rest : List ScriptLine) (cpu : CpuCfg) (dir : Dir) (a : Nat) (d : Byte) (i : Instr),
      s.phase = .running → s.round < s.cfg.slices → s.slicePos ≠ .start → s.yieldReq = false →
      s.cfg.cpus[s.turn]? = some cpu → a < 2 ^ cpu.addrBits →
      s.input = some (match dir with
        | .read => .read s.turn a
        | .write => .write s.turn a d) :: rest →
      txnInstr s.cfg s.turn dir a d = some i →
        exec .schedSlice s = execAll [i, .schedSlice] { s with slicePos := .afterTxn, input := rest }) ∧
    (∀ rest, s.phase = .running → s.round < s.cfg.slices → s.slicePos = .afterTxn → s.yieldReq = false →
      s.input = some (.query s.turn) :: rest →
        exec .schedSlice s =
          execAll [.intQuery s.turn true, .schedSlice] { s with slicePos := .ready, input := rest }) ∧
    (∀ w rest, s.phase = .running → s.round < s.cfg.slices → s.slicePos ≠ .start → s.input = w :: rest →
      w ≠ some .slice →
      (s.yieldReq = true ∨ w = none ∨ w = some .frame ∨
        ∃ c a d, c ≠ s.turn ∧ w ∈ [some (.read c a), some (.write c a d), some (.query c)]) →
        exec .schedSlice s = .refused .scriptInvalid) ∧
    (s.phase = .running → s.cfg.slices ≤ s.round → exec .schedSlice s = .refused .notEnabled) ∧
    (s.phase = .setup → exec .schedSlice s = .refused .notEnabled) ∧
    (s.phase = .configError → exec .schedSlice s = .refused .configError)

/-- A slice of any number of transactions of the current CPU, each inside its address space, completes on a checked
machine without synchronous delivery (R65, R100, R120, R301, R311). -/
def Obligations.SliceCompletes : Prop :=
  ∀ (s : State) (ws rest : List ScriptLine),
    s.Inv → s.phase = .running → s.round < s.cfg.slices → s.slicePos ≠ .start → s.yieldReq = false →
    (∀ hc ∈ s.cfg.handshakes, hc.syncDelivery = false) → (∀ w ∈ ws, s.presents w = true) →
    s.input = ws ++ some .slice :: rest →
    ∃ t, exec .schedSlice s = .next t ∧ t.input = rest ∧ t.phase = .running ∧ t.yieldReq = false ∧
      t.turn = (if s.turn + 1 = s.cfg.cpus.length then 0 else s.turn + 1) ∧
      t.round = (if s.turn + 1 = s.cfg.cpus.length then s.round + 1 else s.round)

/-- SCHED.FRAME (R310): while slices remain, a slice and then the rest of the frame; after the last slice a composition,
the frame count and round 0, on a FRAME line or at the script's end (log entry 6), any other line making the script
invalid (R311). On a checked machine it completes: with the remaining slices scripted, each with any transactions of its
CPU, and the FRAME line (no synchronous delivery); and with an empty script, where the environment ends each slice at
once and only the opening queries act. Refused outside RUNNING. -/
def Obligations.Frame : Prop :=
  ∀ s : State,
    (s.phase = .running → s.round < s.cfg.slices →
      exec .schedFrame s = execAll [.schedSlice, .schedFrame] s) ∧
    (∀ rest, s.phase = .running → s.cfg.slices ≤ s.round →
      ((s.input = [] ∧ rest = []) ∨ s.input = some .frame :: rest) →
      ∃ t u, exec .compose s = .next u ∧ exec .schedFrame s = .next t ∧ t.frame = s.frame + 1 ∧ t.round = 0 ∧
        t.input = rest ∧ Unchanged u t [.frame, .round, .input]) ∧
    (∀ w rest, s.phase = .running → s.cfg.slices ≤ s.round → s.input = w :: rest → w ≠ some .frame →
      exec .schedFrame s = .refused .scriptInvalid) ∧
    (∀ (slices : List (List ScriptLine)) (rest : List ScriptLine),
      s.Inv → s.phase = .running → s.round < s.cfg.slices → s.yieldReq = false →
      (∀ hc ∈ s.cfg.handshakes, hc.syncDelivery = false) →
      slices.length + s.turn = (s.cfg.slices - s.round) * s.cfg.cpus.length →
      (∀ j ws, slices[j]? = some ws →
        ∀ w ∈ ws, State.presents { s with turn := (s.turn + j) % s.cfg.cpus.length } w = true) →
      s.input = slices.flatMap (fun ws => ws ++ [some .slice]) ++ some .frame :: rest →
      ∃ t, exec .schedFrame s = .next t ∧ t.frame = s.frame + 1 ∧ t.round = 0 ∧ t.turn = 0 ∧ t.yieldReq = false ∧
        t.input = rest ∧ t.phase = .running ∧ t.out ≠ none) ∧
    (s.Inv → s.phase = .running → s.round < s.cfg.slices → s.input = [] →
      ∃ t, exec .schedFrame s = .next t ∧ t.frame = s.frame + 1 ∧ t.round = 0 ∧ t.turn = 0 ∧ t.yieldReq = false ∧
        t.out ≠ none ∧
        Unchanged s t [.asserted, .trace, .frame, .round, .turn, .yieldReq, .slicePos, .fb, .out, .dirty]) ∧
    (s.phase = .setup → exec .schedFrame s = .refused .notEnabled) ∧
    (s.phase = .configError → exec .schedFrame s = .refused .configError)

/-- RESET (R330): every register at its reset value, every byte of a buffer its image (a ROM's `init`, a RAM's
`INIT_RAM`), the frame buffer any value. The configuration, and the model's own script, draws, slot and trace, stay
(log entries 1, 3 and 13). -/
def Obligations.Reset : Prop :=
  ∀ s : State, ∃ t, exec .reset s = .next t ∧
    (∀ b off buf, s.cfg.buffers[b]? = some buf → off < buf.size →
      t.memRead b off = BitVec.ofNat 8 (buf.image.apply [off])) ∧
    (∀ k, t.bankIdx k = 0) ∧ (∀ c line, t.irqEn c line = false) ∧ (∀ c ty, t.asserted c ty = .none) ∧
    (∀ c, t.nmiEn c = false ∧ t.nmiPending c = false) ∧ (∀ h, t.hsOf h = ⟨0, 0, 0⟩) ∧
    (∀ m, t.linkOf m = ⟨0, 0, false, false, 0, 0, 0, 0, 0⟩) ∧ (∀ l, t.vregOf l = ⟨0, 0, 0, 0, 0⟩) ∧
    (∀ l, t.dirtyOf l = true) ∧ (∀ x y, pixelAt t.fb x y = Config.freePixel x y) ∧ t.out = none ∧
    t.frame = 0 ∧ t.round = 0 ∧ t.turn = 0 ∧ t.yieldReq = false ∧ t.phase = .setup ∧ t.error = none ∧
    (∀ p ∈ [Part.cfg, .draws, .input, .slot, .trace], Part.same s t p)

/-- The state after reset meets the invariant (Safety.lean). The configuration it carries is the model's choice (log
entry 1). -/
def Obligations.ResetMeetsInvariant : Prop := State.reset.Inv

/-- Every step from a state that meets the invariant gives a state that meets it: the tables stay canonical, only a
checked configuration runs, every bank index stays within its mask (R24), an NMI is pending only while NMIs are
disabled (R162), the scheduler position stays in its ranges (R35), and an error stands in CONFIG_ERROR alone (R305). -/
def Obligations.StepKeepsInvariant : Prop :=
  ∀ s t : State, s.Inv → step s = .next t → t.Inv

/-- There is no illegal transaction (R65, R100, R301): on a machine that meets the invariant, a transaction of the
current CPU inside its address space always completes, and leaves the phase, the turn and the round as they are. -/
def Obligations.TransactionsComplete : Prop :=
  ∀ (s : State) (w : ScriptLine) (rest : List ScriptLine),
    s.Inv → s.slot = none → s.phase = .running → s.round < s.cfg.slices → s.slicePos ≠ .start → s.yieldReq = false →
    s.input = w :: rest → s.presents w = true →
    ∃ t, step s = .next t ∧ t.input = rest ∧ t.phase = .running ∧ t.turn = s.turn ∧ t.round = s.round ∧
      t.error = none

/-- Faults, stuck states and refusals (R320): a machine that meets the invariant and runs its script never faults; while
it runs, the current CPU can always end its slice. R320's one refusal is CONFIG_ERROR; that the model also refuses a
script that is not the block's (an invalid line, R102 and R311; an address that R62 never presents), and that an empty
script ends the slice, is its choice (log entry 6). -/
def Obligations.NoFaultNoStuckState : Prop :=
  ∀ s : State, s.Inv → s.slot = none →
    isFault (step s) = false ∧
    (∀ r, step s = .refused r → r.isSpecs = true ∧ (r = .configError ↔ s.phase = .configError)) ∧
    (s.phase = .configError → step s = .refused .configError) ∧
    (s.phase = .running → s.input = [] → ∃ t, step s = .next t ∧ t.phase = .running)

/-- What writes what, over all operations, part by part of the state (R20 to R38, R42, R301): an operation that changes the
part has one of the listed keys. The scheduler's two operations perform transactions and queries, so they stand with
whatever those write; RESET writes everything but the configuration. No operation and no step writes the configuration
(R20); only RESET and CONFIG.CHECK change the phase or the error. -/
def Obligations.WhoWritesWhat : Prop :=
  (∀ s t, step s = .next t → t.cfg = s.cfg) ∧
  (∀ (i : Instr) (s t : State), exec i s = .next t →
    t.cfg = s.cfg ∧
    (¬(t.phase = s.phase ∧ t.error = s.error) → i ∈ [Instr.reset, .configCheck]) ∧
    (¬Part.same s t .mem → i.key ∈ [0x81, 0x83, 0x85, 0x94, 0x58, 0x48, 0x49]) ∧
    (¬Part.same s t .bank → i.key ∈ [0x84, 0x58, 0x48, 0x49]) ∧
    (¬Part.same s t .irqEn → i.key ∈ [0x86, 0x93, 0x58, 0x48, 0x49]) ∧
    (¬Part.same s t .asserted → i.key ∈ [0x87, 0x88, 0x89, 0x09, 0x8C, 0x0C, 0x8E, 0x40, 0x41, 0x42, 0x43, 0x44, 0x45,
      0x58, 0x48, 0x49]) ∧
    (¬Part.same s t .nmiEn → i.key ∈ [0x87, 0x58, 0x48, 0x49]) ∧
    (¬Part.same s t .nmiPending → i.key ∈ [0x87, 0x43, 0x89, 0x58, 0x48, 0x49]) ∧
    (¬Part.same s t .hs → i.key ∈ [0x89, 0x09, 0x8A, 0x0A, 0x58, 0x48, 0x49]) ∧
    (¬Part.same s t .link → i.key ∈ [0x8C, 0x0C, 0x8F, 0x8E, 0x44, 0x45, 0x58, 0x48, 0x49]) ∧
    (¬Part.same s t .vreg → i.key ∈ [0x93, 0x58, 0x48, 0x49]) ∧
    (¬Part.same s t .dirty → i.key ∈ [0x81, 0x83, 0x85, 0x94, 0x93, 0x4A, 0x58, 0x48, 0x49]) ∧
    (t.yieldReq ≠ s.yieldReq → i.key ∈ [0x89, 0x46, 0x58, 0x48, 0x49]) ∧
    (¬(t.turn = s.turn ∧ t.round = s.round) → i ∈ [Instr.schedSlice, .schedFrame, .reset]) ∧
    (t.frame ≠ s.frame → i ∈ [Instr.schedFrame, .reset]) ∧
    (t.fb ≠ s.fb → i.key ∈ [0x51, 0x53, 0x4A, 0x58, 0x49]) ∧
    (t.out ≠ s.out → i ∈ [Instr.compose, .reset, .schedFrame]))

/-- Which error CONFIG.CHECK records (R300, R305): it visits the checks in the order of the table and, for each, the
objects in configuration order, and records the code and the object of the first that fails, and only that one; it
records none exactly where none fails. `CheckFails` (Safety.lean) says each check in the words of R25, R90 to R93, R98,
R124, R132, R133, R251, R252, R260 and R300; the configuration order and the details R300 leaves open are the model's
choice (log entry 9). -/
def Obligations.CheckReports : Prop :=
  ∀ cfg : Config,
    (∀ err : ConfigError, checkConfig cfg = some err ↔
      ∃ before code o after, checkVisits cfg = before ++ (code, o) :: after ∧ err = ⟨code, o.reported⟩ ∧
        CheckFails cfg code o ∧ ∀ x ∈ before, ¬CheckFails cfg x.1 x.2) ∧
    (checkConfig cfg = none ↔ ∀ x ∈ checkVisits cfg, ¬CheckFails cfg x.1 x.2)

/-- A run (R318): RESET, CONFIG.CHECK, then F frames; a configuration that fails ends it at once in CONFIG_ERROR with
nothing observed. A run that ends shows one `st.out` a frame, the last of them the one that stands; with an empty script
(log entry 6) every run of a checked configuration ends; and a run goes where the block's own steps go. That the host's
script stands in the state and that the configuration and the script are what a run starts from is the model's choice
(log entries 1, 6 and 23). -/
def Obligations.RunOfFrames : Prop :=
  ∀ (cfg : Config) (script : List ScriptLine) (frames : Nat),
    (∀ e, checkConfig cfg = some e → ∃ t, run cfg script frames = .next t ∧ t.phase = .configError ∧ t.error = some e ∧
      t.observation = ⟨[], [], [], t⟩) ∧
    (checkConfig cfg = none → run cfg script frames =
      execAll ([.reset, .configCheck] ++ List.replicate frames .schedFrame) (State.loaded cfg script)) ∧
    (∀ t, checkConfig cfg = none → run cfg script frames = .next t → t.phase = .running ∧ t.frame = frames ∧
      t.observation.frames.length = frames ∧ t.observation.frames.getLast? = t.out) ∧
    (checkConfig cfg = none → ∃ t, run cfg [] frames = .next t) ∧
    (∀ t, run cfg script frames = .next t → ∃ n, steps n (State.loaded cfg script) = .next t)

end
end

