-- ==== Sys2Proof/Laws/Sparse.lean ====
section
/-! SUPPORT. Laws of sparse tables: what a read gives after a write, and that a write keeps the canonical form. -/

namespace Sys2Proof.Machine.Sparse

variable {α : Type}

@[simp] theorem get_nil (dflt : Nat → α) (k : Nat) : get dflt [] k = dflt k := rfl

theorem get_erase (dflt : Nat → α) (l : Table α) (k k' : Nat) :
    get dflt (erase l k) k' = if k' = k then dflt k' else get dflt l k' := by
  induction l with
  | nil => simp [erase]
  | cons p rest ih =>
    obtain ⟨j, v⟩ := p
    by_cases h : k = j
    · subst h; rw [erase, if_pos rfl, ih, get]; split <;> simp_all
    · rw [erase, if_neg h, get, get, ih]; split <;> split <;> simp_all

theorem get_insert (dflt : Nat → α) (l : Table α) (k k' : Nat) (v : α)
    (hl : ∀ p ∈ l, p.1 ≠ k) :
    get dflt (insert l k v) k' = if k' = k then v else get dflt l k' := by
  induction l with
  | nil => simp [insert, get]
  | cons p rest ih =>
    obtain ⟨j, w⟩ := p
    have hj : j ≠ k := hl (j, w) (by simp)
    have ih := ih (fun p hp => hl p (by simp [hp]))
    rw [insert]
    by_cases h : k < j
    · rw [if_pos h, get]
    · rw [if_neg h, get, ih, get]; split <;> split <;> simp_all

theorem not_mem_erase (l : Table α) (k : Nat) : ∀ p ∈ erase l k, p.1 ≠ k := by
  induction l with
  | nil => simp [erase]
  | cons p rest ih =>
    obtain ⟨j, v⟩ := p
    rw [erase]; split
    · exact ih
    · intro q hq
      rcases List.mem_cons.1 hq with rfl | hq
      · intro h; simp_all
      · exact ih q hq

/-- A read after a write: the written object has the value, every other object the value it had. -/
theorem get_set [DecidableEq α] (dflt : Nat → α) (l : Table α) (k k' : Nat) (v : α) :
    get dflt (set dflt l k v) k' = if k' = k then v else get dflt l k' := by
  rw [set]; split
  · rename_i h; rw [get_erase]; split <;> simp_all
  · rw [get_insert dflt _ k k' v (not_mem_erase l k), get_erase]; split <;> simp_all

@[simp] theorem get_set_self [DecidableEq α] (dflt : Nat → α) (l : Table α) (k : Nat) (v : α) :
    get dflt (set dflt l k v) k = v := by rw [get_set, if_pos rfl]

theorem get_set_ne [DecidableEq α] (dflt : Nat → α) (l : Table α) {k k' : Nat} (v : α) (h : k' ≠ k) :
    get dflt (set dflt l k v) k' = get dflt l k' := by rw [get_set, if_neg h]

/-! ### The canonical form -/

theorem above_mono {j k : Nat} {l : Table α} (hjk : j ≤ k) (h : above k l = true) : above j l = true := by
  rw [above, List.all_eq_true] at *; intro p hp; have := h p hp; simp at *; omega

theorem above_erase {j k : Nat} {l : Table α} (h : above j l = true) : above j (erase l k) = true := by
  induction l with
  | nil => simp [erase, above]
  | cons p rest ih =>
    obtain ⟨i, v⟩ := p
    simp only [above, List.all_cons, Bool.and_eq_true] at h
    rw [erase]; split
    · exact ih h.2
    · simp only [above, List.all_cons, Bool.and_eq_true]; exact ⟨h.1, ih h.2⟩

theorem rising_erase {k : Nat} {l : Table α} (h : rising l = true) : rising (erase l k) = true := by
  induction l with
  | nil => simp [erase, rising]
  | cons p rest ih =>
    obtain ⟨i, v⟩ := p
    simp only [rising, Bool.and_eq_true] at h
    rw [erase]; split
    · exact ih h.2
    · simp only [rising, Bool.and_eq_true]; exact ⟨above_erase h.1, ih h.2⟩

theorem above_insert {j k : Nat} {v : α} {l : Table α} (hjk : j < k) (h : above j l = true) :
    above j (insert l k v) = true := by
  induction l with
  | nil => simp [insert, above, hjk]
  | cons p rest ih =>
    obtain ⟨i, w⟩ := p
    simp only [above, List.all_cons, Bool.and_eq_true] at h
    rw [insert]; split
    · simp only [above, List.all_cons, Bool.and_eq_true]; exact ⟨by simpa using hjk, h⟩
    · simp only [above, List.all_cons, Bool.and_eq_true]; exact ⟨h.1, ih h.2⟩

theorem rising_insert {k : Nat} {v : α} {l : Table α} (hl : ∀ p ∈ l, p.1 ≠ k) (h : rising l = true) :
    rising (insert l k v) = true := by
  induction l with
  | nil => simp [insert, rising, above]
  | cons p rest ih =>
    obtain ⟨i, w⟩ := p
    have hi : i ≠ k := hl (i, w) (by simp)
    simp only [rising, Bool.and_eq_true] at h
    rw [insert]; split
    · rename_i hk
      simp only [rising, above, List.all_cons, Bool.and_eq_true]
      refine ⟨⟨by simpa using hk, ?_⟩, h.1, h.2⟩
      exact above_mono (Nat.le_of_lt hk) h.1
    · rename_i hk
      simp only [rising, Bool.and_eq_true]
      exact ⟨above_insert (by omega) h.1, ih (fun p hp => hl p (by simp [hp])) h.2⟩

theorem mem_erase {l : Table α} {k : Nat} {p : Nat × α} (h : p ∈ erase l k) : p ∈ l := by
  induction l with
  | nil => simp [erase] at h
  | cons q rest ih =>
    obtain ⟨i, w⟩ := q
    rw [erase] at h; split at h
    · exact List.mem_cons_of_mem _ (ih h)
    · rcases List.mem_cons.1 h with rfl | h
      · exact List.mem_cons_self ..
      · exact List.mem_cons_of_mem _ (ih h)

theorem mem_insert {l : Table α} {k : Nat} {v : α} {p : Nat × α} (h : p ∈ insert l k v) : p = (k, v) ∨ p ∈ l := by
  induction l with
  | nil => simpa [insert] using h
  | cons q rest ih =>
    obtain ⟨i, w⟩ := q
    rw [insert] at h; split at h
    · simpa using h
    · rcases List.mem_cons.1 h with rfl | h
      · simp
      · rcases ih h with h | h <;> simp [h]

/-- Every entry of a table after a write is the written one, with a value that is not the default, or one it had. -/
theorem mem_set [DecidableEq α] {dflt : Nat → α} {l : Table α} {k : Nat} {v : α} {p : Nat × α}
    (h : p ∈ set dflt l k v) : (p = (k, v) ∧ v ≠ dflt k) ∨ p ∈ l := by
  rw [set] at h; split at h
  · exact .inr (mem_erase h)
  · rename_i hv
    rcases mem_insert h with h | h
    · exact .inl ⟨h, hv⟩
    · exact .inr (mem_erase h)

/-- A write keeps the canonical form. -/
theorem wf_set [DecidableEq α] {dflt : Nat → α} {l : Table α} (k : Nat) (v : α) (h : wf dflt l = true) :
    wf dflt (set dflt l k v) = true := by
  simp only [wf, Bool.and_eq_true, List.all_eq_true, decide_eq_true_eq] at *
  refine ⟨?_, fun p hp => ?_⟩
  · rw [set]; split
    · exact rising_erase h.1
    · exact rising_insert (not_mem_erase l k) (rising_erase h.1)
  · rcases mem_set hp with ⟨rfl, hv⟩ | hp
    · exact hv
    · exact h.2 p hp

@[simp] theorem wf_nil [DecidableEq α] (dflt : Nat → α) : wf dflt ([] : Table α) = true := rfl

/-- In a canonical table the value of a listed object is the one listed. -/
theorem get_of_mem {dflt : Nat → α} {l : Table α} (h : rising l = true) {p : Nat × α} (hp : p ∈ l) :
    get dflt l p.1 = p.2 := by
  induction l with
  | nil => simp at hp
  | cons q rest ih =>
    simp only [rising, Bool.and_eq_true] at h
    rcases List.mem_cons.1 hp with rfl | hp
    · simp [get]
    · have hlt : q.1 < p.1 := by
        have := h.1; rw [above, List.all_eq_true] at this; simpa using this p hp
      rw [get, if_neg (by omega), ih h.2 hp]

/-- The value of an object is the default or a listed one. -/
theorem get_mem_or_dflt (dflt : Nat → α) (l : Table α) (k : Nat) : get dflt l k = dflt k ∨ (k, get dflt l k) ∈ l := by
  induction l with
  | nil => simp
  | cons q rest ih =>
    obtain ⟨i, w⟩ := q
    rw [get]; split
    · rename_i h; subst h; simp
    · rcases ih with h | h
      · exact .inl h
      · exact .inr (List.mem_cons_of_mem _ h)

/-- Two canonical tables with the same values are the same table. -/
theorem ext_of_wf [DecidableEq α] {dflt : Nat → α} {l l' : Table α} (h : wf dflt l = true) (h' : wf dflt l' = true)
    (hg : ∀ k, get dflt l k = get dflt l' k) : l = l' := by
  induction l generalizing l' with
  | nil =>
    cases l' with
    | nil => rfl
    | cons q rest =>
      simp only [wf, Bool.and_eq_true, List.all_eq_true, decide_eq_true_eq] at h'
      have := hg q.1
      rw [get_of_mem h'.1 (List.mem_cons_self ..)] at this
      exact absurd this.symm (h'.2 q (List.mem_cons_self ..))
  | cons p rest ih =>
    cases l' with
    | nil =>
      simp only [wf, Bool.and_eq_true, List.all_eq_true, decide_eq_true_eq] at h
      have := hg p.1
      rw [get_of_mem h.1 (List.mem_cons_self ..)] at this
      exact absurd this (h.2 p (List.mem_cons_self ..))
    | cons q rest' =>
      have hp := h; have hq := h'
      simp only [wf, rising, Bool.and_eq_true, List.all_eq_true, decide_eq_true_eq, List.mem_cons,
        forall_eq_or_imp] at h h'
      have low : ∀ {m : Nat × α} {r : Table α}, above m.1 r = true → ∀ k, k < m.1 → get dflt (m :: r) k = dflt k := by
        intro m r hm k hk
        rcases get_mem_or_dflt dflt (m :: r) k with he | he
        · exact he
        · rcases List.mem_cons.1 he with he | he
          · have : k = m.1 := by rw [← he]
            omega
          · rw [above, List.all_eq_true] at hm; have := hm _ he; simp at this; omega
      have gp := hg p.1
      have gq := hg q.1
      rw [get_of_mem (l := p :: rest) (by simp [rising, h.1.1, h.1.2]) (List.mem_cons_self ..)] at gp
      rw [get_of_mem (l := q :: rest') (by simp [rising, h'.1.1, h'.1.2]) (List.mem_cons_self ..)] at gq
      have key : p.1 = q.1 := by
        rcases Nat.lt_trichotomy p.1 q.1 with hlt | he | hgt
        · rw [low h'.1.1 _ hlt] at gp; exact absurd gp h.2.1
        · exact he
        · rw [low h.1.1 _ hgt] at gq; exact absurd gq.symm h'.2.1
      have val : p.2 = q.2 := by rw [gp, ← hg, key, gq]
      have hpq : p = q := Prod.ext key val
      subst hpq
      congr 1
      apply ih
      · simp only [wf, Bool.and_eq_true, List.all_eq_true, decide_eq_true_eq]; exact ⟨h.1.2, h.2.2⟩
      · simp only [wf, Bool.and_eq_true, List.all_eq_true, decide_eq_true_eq]; exact ⟨h'.1.2, h'.2.2⟩
      · intro k
        by_cases hk : k = p.1
        · subst hk
          have d1 : get dflt rest p.1 = dflt p.1 := by
            rcases get_mem_or_dflt dflt rest p.1 with he | he
            · exact he
            · have := h.1.1; rw [above, List.all_eq_true] at this; simpa using this _ he
          have d2 : get dflt rest' p.1 = dflt p.1 := by
            rcases get_mem_or_dflt dflt rest' p.1 with he | he
            · exact he
            · have := h'.1.1; rw [above, List.all_eq_true] at this; simpa using this _ he
          rw [d1, d2]
        · have := hg k; rwa [get, get, if_neg hk, if_neg hk] at this

end Sys2Proof.Machine.Sparse
end

