-- ==== Sys2Proof/Laws/State.lean ====
section
/-! SUPPORT. The state's updates, one lemma per field per update: an update of one register array leaves every other
field, and what every other accessor reads, as it was. -/

namespace Sys2Proof.Machine
/-! ### setBank -/
@[simp] theorem State.setBank_cfg (s : State) (k v : Nat) : (s.setBank k v).cfg = s.cfg := rfl
@[simp] theorem State.setBank_mem (s : State) (k v : Nat) : (s.setBank k v).mem = s.mem := rfl
@[simp] theorem State.setBank_irq (s : State) (k v : Nat) : (s.setBank k v).irq = s.irq := rfl
@[simp] theorem State.setBank_hs (s : State) (k v : Nat) : (s.setBank k v).hs = s.hs := rfl
@[simp] theorem State.setBank_link (s : State) (k v : Nat) : (s.setBank k v).link = s.link := rfl
@[simp] theorem State.setBank_vreg (s : State) (k v : Nat) : (s.setBank k v).vreg = s.vreg := rfl
@[simp] theorem State.setBank_dirty (s : State) (k v : Nat) : (s.setBank k v).dirty = s.dirty := rfl
@[simp] theorem State.setBank_frame (s : State) (k v : Nat) : (s.setBank k v).frame = s.frame := rfl
@[simp] theorem State.setBank_round (s : State) (k v : Nat) : (s.setBank k v).round = s.round := rfl
@[simp] theorem State.setBank_turn (s : State) (k v : Nat) : (s.setBank k v).turn = s.turn := rfl
@[simp] theorem State.setBank_phase (s : State) (k v : Nat) : (s.setBank k v).phase = s.phase := rfl
@[simp] theorem State.setBank_yieldReq (s : State) (k v : Nat) : (s.setBank k v).yieldReq = s.yieldReq := rfl
@[simp] theorem State.setBank_fb (s : State) (k v : Nat) : (s.setBank k v).fb = s.fb := rfl
@[simp] theorem State.setBank_out (s : State) (k v : Nat) : (s.setBank k v).out = s.out := rfl
@[simp] theorem State.setBank_error (s : State) (k v : Nat) : (s.setBank k v).error = s.error := rfl
@[simp] theorem State.setBank_slicePos (s : State) (k v : Nat) : (s.setBank k v).slicePos = s.slicePos := rfl
@[simp] theorem State.setBank_draws (s : State) (k v : Nat) : (s.setBank k v).draws = s.draws := rfl
@[simp] theorem State.setBank_input (s : State) (k v : Nat) : (s.setBank k v).input = s.input := rfl
@[simp] theorem State.setBank_slot (s : State) (k v : Nat) : (s.setBank k v).slot = s.slot := rfl
@[simp] theorem State.setBank_trace (s : State) (k v : Nat) : (s.setBank k v).trace = s.trace := rfl
@[simp] theorem State.memRead_setBank (s : State) (k v : Nat) (b' off' : Nat) : (s.setBank k v).memRead b' off' = s.memRead b' off' := rfl
@[simp] theorem State.irqOf_setBank (s : State) (k v : Nat) (c' : Nat) : (s.setBank k v).irqOf c' = s.irqOf c' := rfl
@[simp] theorem State.irqEn_setBank (s : State) (k v : Nat) (c' line' : Nat) : (s.setBank k v).irqEn c' line' = s.irqEn c' line' := rfl
@[simp] theorem State.asserted_setBank (s : State) (k v : Nat) (c' : Nat) (t' : IntType) : (s.setBank k v).asserted c' t' = s.asserted c' t' := rfl
@[simp] theorem State.nmiEn_setBank (s : State) (k v : Nat) (c' : Nat) : (s.setBank k v).nmiEn c' = s.nmiEn c' := rfl
@[simp] theorem State.nmiPending_setBank (s : State) (k v : Nat) (c' : Nat) : (s.setBank k v).nmiPending c' = s.nmiPending c' := rfl
@[simp] theorem State.hsOf_setBank (s : State) (k v : Nat) (h' : Nat) : (s.setBank k v).hsOf h' = s.hsOf h' := rfl
@[simp] theorem State.linkOf_setBank (s : State) (k v : Nat) (m' : Nat) : (s.setBank k v).linkOf m' = s.linkOf m' := rfl
@[simp] theorem State.vregOf_setBank (s : State) (k v : Nat) (l' : Nat) : (s.setBank k v).vregOf l' = s.vregOf l' := rfl
@[simp] theorem State.dirtyOf_setBank (s : State) (k v : Nat) (l' : Nat) : (s.setBank k v).dirtyOf l' = s.dirtyOf l' := rfl

/-! ### setIrq -/
@[simp] theorem State.setIrq_cfg (s : State) (c : Nat) (v : CpuIrq) : (s.setIrq c v).cfg = s.cfg := rfl
@[simp] theorem State.setIrq_mem (s : State) (c : Nat) (v : CpuIrq) : (s.setIrq c v).mem = s.mem := rfl
@[simp] theorem State.setIrq_bank (s : State) (c : Nat) (v : CpuIrq) : (s.setIrq c v).bank = s.bank := rfl
@[simp] theorem State.setIrq_hs (s : State) (c : Nat) (v : CpuIrq) : (s.setIrq c v).hs = s.hs := rfl
@[simp] theorem State.setIrq_link (s : State) (c : Nat) (v : CpuIrq) : (s.setIrq c v).link = s.link := rfl
@[simp] theorem State.setIrq_vreg (s : State) (c : Nat) (v : CpuIrq) : (s.setIrq c v).vreg = s.vreg := rfl
@[simp] theorem State.setIrq_dirty (s : State) (c : Nat) (v : CpuIrq) : (s.setIrq c v).dirty = s.dirty := rfl
@[simp] theorem State.setIrq_frame (s : State) (c : Nat) (v : CpuIrq) : (s.setIrq c v).frame = s.frame := rfl
@[simp] theorem State.setIrq_round (s : State) (c : Nat) (v : CpuIrq) : (s.setIrq c v).round = s.round := rfl
@[simp] theorem State.setIrq_turn (s : State) (c : Nat) (v : CpuIrq) : (s.setIrq c v).turn = s.turn := rfl
@[simp] theorem State.setIrq_phase (s : State) (c : Nat) (v : CpuIrq) : (s.setIrq c v).phase = s.phase := rfl
@[simp] theorem State.setIrq_yieldReq (s : State) (c : Nat) (v : CpuIrq) : (s.setIrq c v).yieldReq = s.yieldReq := rfl
@[simp] theorem State.setIrq_fb (s : State) (c : Nat) (v : CpuIrq) : (s.setIrq c v).fb = s.fb := rfl
@[simp] theorem State.setIrq_out (s : State) (c : Nat) (v : CpuIrq) : (s.setIrq c v).out = s.out := rfl
@[simp] theorem State.setIrq_error (s : State) (c : Nat) (v : CpuIrq) : (s.setIrq c v).error = s.error := rfl
@[simp] theorem State.setIrq_slicePos (s : State) (c : Nat) (v : CpuIrq) : (s.setIrq c v).slicePos = s.slicePos := rfl
@[simp] theorem State.setIrq_draws (s : State) (c : Nat) (v : CpuIrq) : (s.setIrq c v).draws = s.draws := rfl
@[simp] theorem State.setIrq_input (s : State) (c : Nat) (v : CpuIrq) : (s.setIrq c v).input = s.input := rfl
@[simp] theorem State.setIrq_slot (s : State) (c : Nat) (v : CpuIrq) : (s.setIrq c v).slot = s.slot := rfl
@[simp] theorem State.setIrq_trace (s : State) (c : Nat) (v : CpuIrq) : (s.setIrq c v).trace = s.trace := rfl
@[simp] theorem State.memRead_setIrq (s : State) (c : Nat) (v : CpuIrq) (b' off' : Nat) : (s.setIrq c v).memRead b' off' = s.memRead b' off' := rfl
@[simp] theorem State.bankIdx_setIrq (s : State) (c : Nat) (v : CpuIrq) (k' : Nat) : (s.setIrq c v).bankIdx k' = s.bankIdx k' := rfl
@[simp] theorem State.hsOf_setIrq (s : State) (c : Nat) (v : CpuIrq) (h' : Nat) : (s.setIrq c v).hsOf h' = s.hsOf h' := rfl
@[simp] theorem State.linkOf_setIrq (s : State) (c : Nat) (v : CpuIrq) (m' : Nat) : (s.setIrq c v).linkOf m' = s.linkOf m' := rfl
@[simp] theorem State.vregOf_setIrq (s : State) (c : Nat) (v : CpuIrq) (l' : Nat) : (s.setIrq c v).vregOf l' = s.vregOf l' := rfl
@[simp] theorem State.dirtyOf_setIrq (s : State) (c : Nat) (v : CpuIrq) (l' : Nat) : (s.setIrq c v).dirtyOf l' = s.dirtyOf l' := rfl

/-! ### setIrqEn -/
@[simp] theorem State.setIrqEn_cfg (s : State) (c line : Nat) (v : Bool) : (s.setIrqEn c line v).cfg = s.cfg := rfl
@[simp] theorem State.setIrqEn_mem (s : State) (c line : Nat) (v : Bool) : (s.setIrqEn c line v).mem = s.mem := rfl
@[simp] theorem State.setIrqEn_bank (s : State) (c line : Nat) (v : Bool) : (s.setIrqEn c line v).bank = s.bank := rfl
@[simp] theorem State.setIrqEn_hs (s : State) (c line : Nat) (v : Bool) : (s.setIrqEn c line v).hs = s.hs := rfl
@[simp] theorem State.setIrqEn_link (s : State) (c line : Nat) (v : Bool) : (s.setIrqEn c line v).link = s.link := rfl
@[simp] theorem State.setIrqEn_vreg (s : State) (c line : Nat) (v : Bool) : (s.setIrqEn c line v).vreg = s.vreg := rfl
@[simp] theorem State.setIrqEn_dirty (s : State) (c line : Nat) (v : Bool) : (s.setIrqEn c line v).dirty = s.dirty := rfl
@[simp] theorem State.setIrqEn_frame (s : State) (c line : Nat) (v : Bool) : (s.setIrqEn c line v).frame = s.frame := rfl
@[simp] theorem State.setIrqEn_round (s : State) (c line : Nat) (v : Bool) : (s.setIrqEn c line v).round = s.round := rfl
@[simp] theorem State.setIrqEn_turn (s : State) (c line : Nat) (v : Bool) : (s.setIrqEn c line v).turn = s.turn := rfl
@[simp] theorem State.setIrqEn_phase (s : State) (c line : Nat) (v : Bool) : (s.setIrqEn c line v).phase = s.phase := rfl
@[simp] theorem State.setIrqEn_yieldReq (s : State) (c line : Nat) (v : Bool) : (s.setIrqEn c line v).yieldReq = s.yieldReq := rfl
@[simp] theorem State.setIrqEn_fb (s : State) (c line : Nat) (v : Bool) : (s.setIrqEn c line v).fb = s.fb := rfl
@[simp] theorem State.setIrqEn_out (s : State) (c line : Nat) (v : Bool) : (s.setIrqEn c line v).out = s.out := rfl
@[simp] theorem State.setIrqEn_error (s : State) (c line : Nat) (v : Bool) : (s.setIrqEn c line v).error = s.error := rfl
@[simp] theorem State.setIrqEn_slicePos (s : State) (c line : Nat) (v : Bool) : (s.setIrqEn c line v).slicePos = s.slicePos := rfl
@[simp] theorem State.setIrqEn_draws (s : State) (c line : Nat) (v : Bool) : (s.setIrqEn c line v).draws = s.draws := rfl
@[simp] theorem State.setIrqEn_input (s : State) (c line : Nat) (v : Bool) : (s.setIrqEn c line v).input = s.input := rfl
@[simp] theorem State.setIrqEn_slot (s : State) (c line : Nat) (v : Bool) : (s.setIrqEn c line v).slot = s.slot := rfl
@[simp] theorem State.setIrqEn_trace (s : State) (c line : Nat) (v : Bool) : (s.setIrqEn c line v).trace = s.trace := rfl
@[simp] theorem State.memRead_setIrqEn (s : State) (c line : Nat) (v : Bool) (b' off' : Nat) : (s.setIrqEn c line v).memRead b' off' = s.memRead b' off' := rfl
@[simp] theorem State.bankIdx_setIrqEn (s : State) (c line : Nat) (v : Bool) (k' : Nat) : (s.setIrqEn c line v).bankIdx k' = s.bankIdx k' := rfl
@[simp] theorem State.hsOf_setIrqEn (s : State) (c line : Nat) (v : Bool) (h' : Nat) : (s.setIrqEn c line v).hsOf h' = s.hsOf h' := rfl
@[simp] theorem State.linkOf_setIrqEn (s : State) (c line : Nat) (v : Bool) (m' : Nat) : (s.setIrqEn c line v).linkOf m' = s.linkOf m' := rfl
@[simp] theorem State.vregOf_setIrqEn (s : State) (c line : Nat) (v : Bool) (l' : Nat) : (s.setIrqEn c line v).vregOf l' = s.vregOf l' := rfl
@[simp] theorem State.dirtyOf_setIrqEn (s : State) (c line : Nat) (v : Bool) (l' : Nat) : (s.setIrqEn c line v).dirtyOf l' = s.dirtyOf l' := rfl

/-! ### setAsserted -/
@[simp] theorem State.setAsserted_cfg (s : State) (c : Nat) (t : IntType) (v : Assert) : (s.setAsserted c t v).cfg = s.cfg := rfl
@[simp] theorem State.setAsserted_mem (s : State) (c : Nat) (t : IntType) (v : Assert) : (s.setAsserted c t v).mem = s.mem := rfl
@[simp] theorem State.setAsserted_bank (s : State) (c : Nat) (t : IntType) (v : Assert) : (s.setAsserted c t v).bank = s.bank := rfl
@[simp] theorem State.setAsserted_hs (s : State) (c : Nat) (t : IntType) (v : Assert) : (s.setAsserted c t v).hs = s.hs := rfl
@[simp] theorem State.setAsserted_link (s : State) (c : Nat) (t : IntType) (v : Assert) : (s.setAsserted c t v).link = s.link := rfl
@[simp] theorem State.setAsserted_vreg (s : State) (c : Nat) (t : IntType) (v : Assert) : (s.setAsserted c t v).vreg = s.vreg := rfl
@[simp] theorem State.setAsserted_dirty (s : State) (c : Nat) (t : IntType) (v : Assert) : (s.setAsserted c t v).dirty = s.dirty := rfl
@[simp] theorem State.setAsserted_frame (s : State) (c : Nat) (t : IntType) (v : Assert) : (s.setAsserted c t v).frame = s.frame := rfl
@[simp] theorem State.setAsserted_round (s : State) (c : Nat) (t : IntType) (v : Assert) : (s.setAsserted c t v).round = s.round := rfl
@[simp] theorem State.setAsserted_turn (s : State) (c : Nat) (t : IntType) (v : Assert) : (s.setAsserted c t v).turn = s.turn := rfl
@[simp] theorem State.setAsserted_phase (s : State) (c : Nat) (t : IntType) (v : Assert) : (s.setAsserted c t v).phase = s.phase := rfl
@[simp] theorem State.setAsserted_yieldReq (s : State) (c : Nat) (t : IntType) (v : Assert) : (s.setAsserted c t v).yieldReq = s.yieldReq := rfl
@[simp] theorem State.setAsserted_fb (s : State) (c : Nat) (t : IntType) (v : Assert) : (s.setAsserted c t v).fb = s.fb := rfl
@[simp] theorem State.setAsserted_out (s : State) (c : Nat) (t : IntType) (v : Assert) : (s.setAsserted c t v).out = s.out := rfl
@[simp] theorem State.setAsserted_error (s : State) (c : Nat) (t : IntType) (v : Assert) : (s.setAsserted c t v).error = s.error := rfl
@[simp] theorem State.setAsserted_slicePos (s : State) (c : Nat) (t : IntType) (v : Assert) : (s.setAsserted c t v).slicePos = s.slicePos := rfl
@[simp] theorem State.setAsserted_draws (s : State) (c : Nat) (t : IntType) (v : Assert) : (s.setAsserted c t v).draws = s.draws := rfl
@[simp] theorem State.setAsserted_input (s : State) (c : Nat) (t : IntType) (v : Assert) : (s.setAsserted c t v).input = s.input := rfl
@[simp] theorem State.setAsserted_slot (s : State) (c : Nat) (t : IntType) (v : Assert) : (s.setAsserted c t v).slot = s.slot := rfl
@[simp] theorem State.setAsserted_trace (s : State) (c : Nat) (t : IntType) (v : Assert) : (s.setAsserted c t v).trace = s.trace := rfl
@[simp] theorem State.memRead_setAsserted (s : State) (c : Nat) (t : IntType) (v : Assert) (b' off' : Nat) : (s.setAsserted c t v).memRead b' off' = s.memRead b' off' := rfl
@[simp] theorem State.bankIdx_setAsserted (s : State) (c : Nat) (t : IntType) (v : Assert) (k' : Nat) : (s.setAsserted c t v).bankIdx k' = s.bankIdx k' := rfl
@[simp] theorem State.hsOf_setAsserted (s : State) (c : Nat) (t : IntType) (v : Assert) (h' : Nat) : (s.setAsserted c t v).hsOf h' = s.hsOf h' := rfl
@[simp] theorem State.linkOf_setAsserted (s : State) (c : Nat) (t : IntType) (v : Assert) (m' : Nat) : (s.setAsserted c t v).linkOf m' = s.linkOf m' := rfl
@[simp] theorem State.vregOf_setAsserted (s : State) (c : Nat) (t : IntType) (v : Assert) (l' : Nat) : (s.setAsserted c t v).vregOf l' = s.vregOf l' := rfl
@[simp] theorem State.dirtyOf_setAsserted (s : State) (c : Nat) (t : IntType) (v : Assert) (l' : Nat) : (s.setAsserted c t v).dirtyOf l' = s.dirtyOf l' := rfl

/-! ### setNmiEn -/
@[simp] theorem State.setNmiEn_cfg (s : State) (c : Nat) (v : Bool) : (s.setNmiEn c v).cfg = s.cfg := rfl
@[simp] theorem State.setNmiEn_mem (s : State) (c : Nat) (v : Bool) : (s.setNmiEn c v).mem = s.mem := rfl
@[simp] theorem State.setNmiEn_bank (s : State) (c : Nat) (v : Bool) : (s.setNmiEn c v).bank = s.bank := rfl
@[simp] theorem State.setNmiEn_hs (s : State) (c : Nat) (v : Bool) : (s.setNmiEn c v).hs = s.hs := rfl
@[simp] theorem State.setNmiEn_link (s : State) (c : Nat) (v : Bool) : (s.setNmiEn c v).link = s.link := rfl
@[simp] theorem State.setNmiEn_vreg (s : State) (c : Nat) (v : Bool) : (s.setNmiEn c v).vreg = s.vreg := rfl
@[simp] theorem State.setNmiEn_dirty (s : State) (c : Nat) (v : Bool) : (s.setNmiEn c v).dirty = s.dirty := rfl
@[simp] theorem State.setNmiEn_frame (s : State) (c : Nat) (v : Bool) : (s.setNmiEn c v).frame = s.frame := rfl
@[simp] theorem State.setNmiEn_round (s : State) (c : Nat) (v : Bool) : (s.setNmiEn c v).round = s.round := rfl
@[simp] theorem State.setNmiEn_turn (s : State) (c : Nat) (v : Bool) : (s.setNmiEn c v).turn = s.turn := rfl
@[simp] theorem State.setNmiEn_phase (s : State) (c : Nat) (v : Bool) : (s.setNmiEn c v).phase = s.phase := rfl
@[simp] theorem State.setNmiEn_yieldReq (s : State) (c : Nat) (v : Bool) : (s.setNmiEn c v).yieldReq = s.yieldReq := rfl
@[simp] theorem State.setNmiEn_fb (s : State) (c : Nat) (v : Bool) : (s.setNmiEn c v).fb = s.fb := rfl
@[simp] theorem State.setNmiEn_out (s : State) (c : Nat) (v : Bool) : (s.setNmiEn c v).out = s.out := rfl
@[simp] theorem State.setNmiEn_error (s : State) (c : Nat) (v : Bool) : (s.setNmiEn c v).error = s.error := rfl
@[simp] theorem State.setNmiEn_slicePos (s : State) (c : Nat) (v : Bool) : (s.setNmiEn c v).slicePos = s.slicePos := rfl
@[simp] theorem State.setNmiEn_draws (s : State) (c : Nat) (v : Bool) : (s.setNmiEn c v).draws = s.draws := rfl
@[simp] theorem State.setNmiEn_input (s : State) (c : Nat) (v : Bool) : (s.setNmiEn c v).input = s.input := rfl
@[simp] theorem State.setNmiEn_slot (s : State) (c : Nat) (v : Bool) : (s.setNmiEn c v).slot = s.slot := rfl
@[simp] theorem State.setNmiEn_trace (s : State) (c : Nat) (v : Bool) : (s.setNmiEn c v).trace = s.trace := rfl
@[simp] theorem State.memRead_setNmiEn (s : State) (c : Nat) (v : Bool) (b' off' : Nat) : (s.setNmiEn c v).memRead b' off' = s.memRead b' off' := rfl
@[simp] theorem State.bankIdx_setNmiEn (s : State) (c : Nat) (v : Bool) (k' : Nat) : (s.setNmiEn c v).bankIdx k' = s.bankIdx k' := rfl
@[simp] theorem State.hsOf_setNmiEn (s : State) (c : Nat) (v : Bool) (h' : Nat) : (s.setNmiEn c v).hsOf h' = s.hsOf h' := rfl
@[simp] theorem State.linkOf_setNmiEn (s : State) (c : Nat) (v : Bool) (m' : Nat) : (s.setNmiEn c v).linkOf m' = s.linkOf m' := rfl
@[simp] theorem State.vregOf_setNmiEn (s : State) (c : Nat) (v : Bool) (l' : Nat) : (s.setNmiEn c v).vregOf l' = s.vregOf l' := rfl
@[simp] theorem State.dirtyOf_setNmiEn (s : State) (c : Nat) (v : Bool) (l' : Nat) : (s.setNmiEn c v).dirtyOf l' = s.dirtyOf l' := rfl

/-! ### setNmiPending -/
@[simp] theorem State.setNmiPending_cfg (s : State) (c : Nat) (v : Bool) : (s.setNmiPending c v).cfg = s.cfg := rfl
@[simp] theorem State.setNmiPending_mem (s : State) (c : Nat) (v : Bool) : (s.setNmiPending c v).mem = s.mem := rfl
@[simp] theorem State.setNmiPending_bank (s : State) (c : Nat) (v : Bool) : (s.setNmiPending c v).bank = s.bank := rfl
@[simp] theorem State.setNmiPending_hs (s : State) (c : Nat) (v : Bool) : (s.setNmiPending c v).hs = s.hs := rfl
@[simp] theorem State.setNmiPending_link (s : State) (c : Nat) (v : Bool) : (s.setNmiPending c v).link = s.link := rfl
@[simp] theorem State.setNmiPending_vreg (s : State) (c : Nat) (v : Bool) : (s.setNmiPending c v).vreg = s.vreg := rfl
@[simp] theorem State.setNmiPending_dirty (s : State) (c : Nat) (v : Bool) : (s.setNmiPending c v).dirty = s.dirty := rfl
@[simp] theorem State.setNmiPending_frame (s : State) (c : Nat) (v : Bool) : (s.setNmiPending c v).frame = s.frame := rfl
@[simp] theorem State.setNmiPending_round (s : State) (c : Nat) (v : Bool) : (s.setNmiPending c v).round = s.round := rfl
@[simp] theorem State.setNmiPending_turn (s : State) (c : Nat) (v : Bool) : (s.setNmiPending c v).turn = s.turn := rfl
@[simp] theorem State.setNmiPending_phase (s : State) (c : Nat) (v : Bool) : (s.setNmiPending c v).phase = s.phase := rfl
@[simp] theorem State.setNmiPending_yieldReq (s : State) (c : Nat) (v : Bool) : (s.setNmiPending c v).yieldReq = s.yieldReq := rfl
@[simp] theorem State.setNmiPending_fb (s : State) (c : Nat) (v : Bool) : (s.setNmiPending c v).fb = s.fb := rfl
@[simp] theorem State.setNmiPending_out (s : State) (c : Nat) (v : Bool) : (s.setNmiPending c v).out = s.out := rfl
@[simp] theorem State.setNmiPending_error (s : State) (c : Nat) (v : Bool) : (s.setNmiPending c v).error = s.error := rfl
@[simp] theorem State.setNmiPending_slicePos (s : State) (c : Nat) (v : Bool) : (s.setNmiPending c v).slicePos = s.slicePos := rfl
@[simp] theorem State.setNmiPending_draws (s : State) (c : Nat) (v : Bool) : (s.setNmiPending c v).draws = s.draws := rfl
@[simp] theorem State.setNmiPending_input (s : State) (c : Nat) (v : Bool) : (s.setNmiPending c v).input = s.input := rfl
@[simp] theorem State.setNmiPending_slot (s : State) (c : Nat) (v : Bool) : (s.setNmiPending c v).slot = s.slot := rfl
@[simp] theorem State.setNmiPending_trace (s : State) (c : Nat) (v : Bool) : (s.setNmiPending c v).trace = s.trace := rfl
@[simp] theorem State.memRead_setNmiPending (s : State) (c : Nat) (v : Bool) (b' off' : Nat) : (s.setNmiPending c v).memRead b' off' = s.memRead b' off' := rfl
@[simp] theorem State.bankIdx_setNmiPending (s : State) (c : Nat) (v : Bool) (k' : Nat) : (s.setNmiPending c v).bankIdx k' = s.bankIdx k' := rfl
@[simp] theorem State.hsOf_setNmiPending (s : State) (c : Nat) (v : Bool) (h' : Nat) : (s.setNmiPending c v).hsOf h' = s.hsOf h' := rfl
@[simp] theorem State.linkOf_setNmiPending (s : State) (c : Nat) (v : Bool) (m' : Nat) : (s.setNmiPending c v).linkOf m' = s.linkOf m' := rfl
@[simp] theorem State.vregOf_setNmiPending (s : State) (c : Nat) (v : Bool) (l' : Nat) : (s.setNmiPending c v).vregOf l' = s.vregOf l' := rfl
@[simp] theorem State.dirtyOf_setNmiPending (s : State) (c : Nat) (v : Bool) (l' : Nat) : (s.setNmiPending c v).dirtyOf l' = s.dirtyOf l' := rfl

/-! ### setHs -/
@[simp] theorem State.setHs_cfg (s : State) (h : Nat) (v : HsRegs) : (s.setHs h v).cfg = s.cfg := rfl
@[simp] theorem State.setHs_mem (s : State) (h : Nat) (v : HsRegs) : (s.setHs h v).mem = s.mem := rfl
@[simp] theorem State.setHs_bank (s : State) (h : Nat) (v : HsRegs) : (s.setHs h v).bank = s.bank := rfl
@[simp] theorem State.setHs_irq (s : State) (h : Nat) (v : HsRegs) : (s.setHs h v).irq = s.irq := rfl
@[simp] theorem State.setHs_link (s : State) (h : Nat) (v : HsRegs) : (s.setHs h v).link = s.link := rfl
@[simp] theorem State.setHs_vreg (s : State) (h : Nat) (v : HsRegs) : (s.setHs h v).vreg = s.vreg := rfl
@[simp] theorem State.setHs_dirty (s : State) (h : Nat) (v : HsRegs) : (s.setHs h v).dirty = s.dirty := rfl
@[simp] theorem State.setHs_frame (s : State) (h : Nat) (v : HsRegs) : (s.setHs h v).frame = s.frame := rfl
@[simp] theorem State.setHs_round (s : State) (h : Nat) (v : HsRegs) : (s.setHs h v).round = s.round := rfl
@[simp] theorem State.setHs_turn (s : State) (h : Nat) (v : HsRegs) : (s.setHs h v).turn = s.turn := rfl
@[simp] theorem State.setHs_phase (s : State) (h : Nat) (v : HsRegs) : (s.setHs h v).phase = s.phase := rfl
@[simp] theorem State.setHs_yieldReq (s : State) (h : Nat) (v : HsRegs) : (s.setHs h v).yieldReq = s.yieldReq := rfl
@[simp] theorem State.setHs_fb (s : State) (h : Nat) (v : HsRegs) : (s.setHs h v).fb = s.fb := rfl
@[simp] theorem State.setHs_out (s : State) (h : Nat) (v : HsRegs) : (s.setHs h v).out = s.out := rfl
@[simp] theorem State.setHs_error (s : State) (h : Nat) (v : HsRegs) : (s.setHs h v).error = s.error := rfl
@[simp] theorem State.setHs_slicePos (s : State) (h : Nat) (v : HsRegs) : (s.setHs h v).slicePos = s.slicePos := rfl
@[simp] theorem State.setHs_draws (s : State) (h : Nat) (v : HsRegs) : (s.setHs h v).draws = s.draws := rfl
@[simp] theorem State.setHs_input (s : State) (h : Nat) (v : HsRegs) : (s.setHs h v).input = s.input := rfl
@[simp] theorem State.setHs_slot (s : State) (h : Nat) (v : HsRegs) : (s.setHs h v).slot = s.slot := rfl
@[simp] theorem State.setHs_trace (s : State) (h : Nat) (v : HsRegs) : (s.setHs h v).trace = s.trace := rfl
@[simp] theorem State.memRead_setHs (s : State) (h : Nat) (v : HsRegs) (b' off' : Nat) : (s.setHs h v).memRead b' off' = s.memRead b' off' := rfl
@[simp] theorem State.bankIdx_setHs (s : State) (h : Nat) (v : HsRegs) (k' : Nat) : (s.setHs h v).bankIdx k' = s.bankIdx k' := rfl
@[simp] theorem State.irqOf_setHs (s : State) (h : Nat) (v : HsRegs) (c' : Nat) : (s.setHs h v).irqOf c' = s.irqOf c' := rfl
@[simp] theorem State.irqEn_setHs (s : State) (h : Nat) (v : HsRegs) (c' line' : Nat) : (s.setHs h v).irqEn c' line' = s.irqEn c' line' := rfl
@[simp] theorem State.asserted_setHs (s : State) (h : Nat) (v : HsRegs) (c' : Nat) (t' : IntType) : (s.setHs h v).asserted c' t' = s.asserted c' t' := rfl
@[simp] theorem State.nmiEn_setHs (s : State) (h : Nat) (v : HsRegs) (c' : Nat) : (s.setHs h v).nmiEn c' = s.nmiEn c' := rfl
@[simp] theorem State.nmiPending_setHs (s : State) (h : Nat) (v : HsRegs) (c' : Nat) : (s.setHs h v).nmiPending c' = s.nmiPending c' := rfl
@[simp] theorem State.linkOf_setHs (s : State) (h : Nat) (v : HsRegs) (m' : Nat) : (s.setHs h v).linkOf m' = s.linkOf m' := rfl
@[simp] theorem State.vregOf_setHs (s : State) (h : Nat) (v : HsRegs) (l' : Nat) : (s.setHs h v).vregOf l' = s.vregOf l' := rfl
@[simp] theorem State.dirtyOf_setHs (s : State) (h : Nat) (v : HsRegs) (l' : Nat) : (s.setHs h v).dirtyOf l' = s.dirtyOf l' := rfl

/-! ### setLink -/
@[simp] theorem State.setLink_cfg (s : State) (m : Nat) (v : LinkRegs) : (s.setLink m v).cfg = s.cfg := rfl
@[simp] theorem State.setLink_mem (s : State) (m : Nat) (v : LinkRegs) : (s.setLink m v).mem = s.mem := rfl
@[simp] theorem State.setLink_bank (s : State) (m : Nat) (v : LinkRegs) : (s.setLink m v).bank = s.bank := rfl
@[simp] theorem State.setLink_irq (s : State) (m : Nat) (v : LinkRegs) : (s.setLink m v).irq = s.irq := rfl
@[simp] theorem State.setLink_hs (s : State) (m : Nat) (v : LinkRegs) : (s.setLink m v).hs = s.hs := rfl
@[simp] theorem State.setLink_vreg (s : State) (m : Nat) (v : LinkRegs) : (s.setLink m v).vreg = s.vreg := rfl
@[simp] theorem State.setLink_dirty (s : State) (m : Nat) (v : LinkRegs) : (s.setLink m v).dirty = s.dirty := rfl
@[simp] theorem State.setLink_frame (s : State) (m : Nat) (v : LinkRegs) : (s.setLink m v).frame = s.frame := rfl
@[simp] theorem State.setLink_round (s : State) (m : Nat) (v : LinkRegs) : (s.setLink m v).round = s.round := rfl
@[simp] theorem State.setLink_turn (s : State) (m : Nat) (v : LinkRegs) : (s.setLink m v).turn = s.turn := rfl
@[simp] theorem State.setLink_phase (s : State) (m : Nat) (v : LinkRegs) : (s.setLink m v).phase = s.phase := rfl
@[simp] theorem State.setLink_yieldReq (s : State) (m : Nat) (v : LinkRegs) : (s.setLink m v).yieldReq = s.yieldReq := rfl
@[simp] theorem State.setLink_fb (s : State) (m : Nat) (v : LinkRegs) : (s.setLink m v).fb = s.fb := rfl
@[simp] theorem State.setLink_out (s : State) (m : Nat) (v : LinkRegs) : (s.setLink m v).out = s.out := rfl
@[simp] theorem State.setLink_error (s : State) (m : Nat) (v : LinkRegs) : (s.setLink m v).error = s.error := rfl
@[simp] theorem State.setLink_slicePos (s : State) (m : Nat) (v : LinkRegs) : (s.setLink m v).slicePos = s.slicePos := rfl
@[simp] theorem State.setLink_draws (s : State) (m : Nat) (v : LinkRegs) : (s.setLink m v).draws = s.draws := rfl
@[simp] theorem State.setLink_input (s : State) (m : Nat) (v : LinkRegs) : (s.setLink m v).input = s.input := rfl
@[simp] theorem State.setLink_slot (s : State) (m : Nat) (v : LinkRegs) : (s.setLink m v).slot = s.slot := rfl
@[simp] theorem State.setLink_trace (s : State) (m : Nat) (v : LinkRegs) : (s.setLink m v).trace = s.trace := rfl
@[simp] theorem State.memRead_setLink (s : State) (m : Nat) (v : LinkRegs) (b' off' : Nat) : (s.setLink m v).memRead b' off' = s.memRead b' off' := rfl
@[simp] theorem State.bankIdx_setLink (s : State) (m : Nat) (v : LinkRegs) (k' : Nat) : (s.setLink m v).bankIdx k' = s.bankIdx k' := rfl
@[simp] theorem State.irqOf_setLink (s : State) (m : Nat) (v : LinkRegs) (c' : Nat) : (s.setLink m v).irqOf c' = s.irqOf c' := rfl
@[simp] theorem State.irqEn_setLink (s : State) (m : Nat) (v : LinkRegs) (c' line' : Nat) : (s.setLink m v).irqEn c' line' = s.irqEn c' line' := rfl
@[simp] theorem State.asserted_setLink (s : State) (m : Nat) (v : LinkRegs) (c' : Nat) (t' : IntType) : (s.setLink m v).asserted c' t' = s.asserted c' t' := rfl
@[simp] theorem State.nmiEn_setLink (s : State) (m : Nat) (v : LinkRegs) (c' : Nat) : (s.setLink m v).nmiEn c' = s.nmiEn c' := rfl
@[simp] theorem State.nmiPending_setLink (s : State) (m : Nat) (v : LinkRegs) (c' : Nat) : (s.setLink m v).nmiPending c' = s.nmiPending c' := rfl
@[simp] theorem State.hsOf_setLink (s : State) (m : Nat) (v : LinkRegs) (h' : Nat) : (s.setLink m v).hsOf h' = s.hsOf h' := rfl
@[simp] theorem State.vregOf_setLink (s : State) (m : Nat) (v : LinkRegs) (l' : Nat) : (s.setLink m v).vregOf l' = s.vregOf l' := rfl
@[simp] theorem State.dirtyOf_setLink (s : State) (m : Nat) (v : LinkRegs) (l' : Nat) : (s.setLink m v).dirtyOf l' = s.dirtyOf l' := rfl

/-! ### setVreg -/
@[simp] theorem State.setVreg_cfg (s : State) (l : Nat) (v : VregRegs) : (s.setVreg l v).cfg = s.cfg := rfl
@[simp] theorem State.setVreg_mem (s : State) (l : Nat) (v : VregRegs) : (s.setVreg l v).mem = s.mem := rfl
@[simp] theorem State.setVreg_bank (s : State) (l : Nat) (v : VregRegs) : (s.setVreg l v).bank = s.bank := rfl
@[simp] theorem State.setVreg_irq (s : State) (l : Nat) (v : VregRegs) : (s.setVreg l v).irq = s.irq := rfl
@[simp] theorem State.setVreg_hs (s : State) (l : Nat) (v : VregRegs) : (s.setVreg l v).hs = s.hs := rfl
@[simp] theorem State.setVreg_link (s : State) (l : Nat) (v : VregRegs) : (s.setVreg l v).link = s.link := rfl
@[simp] theorem State.setVreg_dirty (s : State) (l : Nat) (v : VregRegs) : (s.setVreg l v).dirty = s.dirty := rfl
@[simp] theorem State.setVreg_frame (s : State) (l : Nat) (v : VregRegs) : (s.setVreg l v).frame = s.frame := rfl
@[simp] theorem State.setVreg_round (s : State) (l : Nat) (v : VregRegs) : (s.setVreg l v).round = s.round := rfl
@[simp] theorem State.setVreg_turn (s : State) (l : Nat) (v : VregRegs) : (s.setVreg l v).turn = s.turn := rfl
@[simp] theorem State.setVreg_phase (s : State) (l : Nat) (v : VregRegs) : (s.setVreg l v).phase = s.phase := rfl
@[simp] theorem State.setVreg_yieldReq (s : State) (l : Nat) (v : VregRegs) : (s.setVreg l v).yieldReq = s.yieldReq := rfl
@[simp] theorem State.setVreg_fb (s : State) (l : Nat) (v : VregRegs) : (s.setVreg l v).fb = s.fb := rfl
@[simp] theorem State.setVreg_out (s : State) (l : Nat) (v : VregRegs) : (s.setVreg l v).out = s.out := rfl
@[simp] theorem State.setVreg_error (s : State) (l : Nat) (v : VregRegs) : (s.setVreg l v).error = s.error := rfl
@[simp] theorem State.setVreg_slicePos (s : State) (l : Nat) (v : VregRegs) : (s.setVreg l v).slicePos = s.slicePos := rfl
@[simp] theorem State.setVreg_draws (s : State) (l : Nat) (v : VregRegs) : (s.setVreg l v).draws = s.draws := rfl
@[simp] theorem State.setVreg_input (s : State) (l : Nat) (v : VregRegs) : (s.setVreg l v).input = s.input := rfl
@[simp] theorem State.setVreg_slot (s : State) (l : Nat) (v : VregRegs) : (s.setVreg l v).slot = s.slot := rfl
@[simp] theorem State.setVreg_trace (s : State) (l : Nat) (v : VregRegs) : (s.setVreg l v).trace = s.trace := rfl
@[simp] theorem State.memRead_setVreg (s : State) (l : Nat) (v : VregRegs) (b' off' : Nat) : (s.setVreg l v).memRead b' off' = s.memRead b' off' := rfl
@[simp] theorem State.bankIdx_setVreg (s : State) (l : Nat) (v : VregRegs) (k' : Nat) : (s.setVreg l v).bankIdx k' = s.bankIdx k' := rfl
@[simp] theorem State.irqOf_setVreg (s : State) (l : Nat) (v : VregRegs) (c' : Nat) : (s.setVreg l v).irqOf c' = s.irqOf c' := rfl
@[simp] theorem State.irqEn_setVreg (s : State) (l : Nat) (v : VregRegs) (c' line' : Nat) : (s.setVreg l v).irqEn c' line' = s.irqEn c' line' := rfl
@[simp] theorem State.asserted_setVreg (s : State) (l : Nat) (v : VregRegs) (c' : Nat) (t' : IntType) : (s.setVreg l v).asserted c' t' = s.asserted c' t' := rfl
@[simp] theorem State.nmiEn_setVreg (s : State) (l : Nat) (v : VregRegs) (c' : Nat) : (s.setVreg l v).nmiEn c' = s.nmiEn c' := rfl
@[simp] theorem State.nmiPending_setVreg (s : State) (l : Nat) (v : VregRegs) (c' : Nat) : (s.setVreg l v).nmiPending c' = s.nmiPending c' := rfl
@[simp] theorem State.hsOf_setVreg (s : State) (l : Nat) (v : VregRegs) (h' : Nat) : (s.setVreg l v).hsOf h' = s.hsOf h' := rfl
@[simp] theorem State.linkOf_setVreg (s : State) (l : Nat) (v : VregRegs) (m' : Nat) : (s.setVreg l v).linkOf m' = s.linkOf m' := rfl
@[simp] theorem State.dirtyOf_setVreg (s : State) (l : Nat) (v : VregRegs) (l' : Nat) : (s.setVreg l v).dirtyOf l' = s.dirtyOf l' := rfl

/-! ### setDirty -/
@[simp] theorem State.setDirty_cfg (s : State) (l : Nat) (v : Bool) : (s.setDirty l v).cfg = s.cfg := rfl
@[simp] theorem State.setDirty_mem (s : State) (l : Nat) (v : Bool) : (s.setDirty l v).mem = s.mem := rfl
@[simp] theorem State.setDirty_bank (s : State) (l : Nat) (v : Bool) : (s.setDirty l v).bank = s.bank := rfl
@[simp] theorem State.setDirty_irq (s : State) (l : Nat) (v : Bool) : (s.setDirty l v).irq = s.irq := rfl
@[simp] theorem State.setDirty_hs (s : State) (l : Nat) (v : Bool) : (s.setDirty l v).hs = s.hs := rfl
@[simp] theorem State.setDirty_link (s : State) (l : Nat) (v : Bool) : (s.setDirty l v).link = s.link := rfl
@[simp] theorem State.setDirty_vreg (s : State) (l : Nat) (v : Bool) : (s.setDirty l v).vreg = s.vreg := rfl
@[simp] theorem State.setDirty_frame (s : State) (l : Nat) (v : Bool) : (s.setDirty l v).frame = s.frame := rfl
@[simp] theorem State.setDirty_round (s : State) (l : Nat) (v : Bool) : (s.setDirty l v).round = s.round := rfl
@[simp] theorem State.setDirty_turn (s : State) (l : Nat) (v : Bool) : (s.setDirty l v).turn = s.turn := rfl
@[simp] theorem State.setDirty_phase (s : State) (l : Nat) (v : Bool) : (s.setDirty l v).phase = s.phase := rfl
@[simp] theorem State.setDirty_yieldReq (s : State) (l : Nat) (v : Bool) : (s.setDirty l v).yieldReq = s.yieldReq := rfl
@[simp] theorem State.setDirty_fb (s : State) (l : Nat) (v : Bool) : (s.setDirty l v).fb = s.fb := rfl
@[simp] theorem State.setDirty_out (s : State) (l : Nat) (v : Bool) : (s.setDirty l v).out = s.out := rfl
@[simp] theorem State.setDirty_error (s : State) (l : Nat) (v : Bool) : (s.setDirty l v).error = s.error := rfl
@[simp] theorem State.setDirty_slicePos (s : State) (l : Nat) (v : Bool) : (s.setDirty l v).slicePos = s.slicePos := rfl
@[simp] theorem State.setDirty_draws (s : State) (l : Nat) (v : Bool) : (s.setDirty l v).draws = s.draws := rfl
@[simp] theorem State.setDirty_input (s : State) (l : Nat) (v : Bool) : (s.setDirty l v).input = s.input := rfl
@[simp] theorem State.setDirty_slot (s : State) (l : Nat) (v : Bool) : (s.setDirty l v).slot = s.slot := rfl
@[simp] theorem State.setDirty_trace (s : State) (l : Nat) (v : Bool) : (s.setDirty l v).trace = s.trace := rfl
@[simp] theorem State.memRead_setDirty (s : State) (l : Nat) (v : Bool) (b' off' : Nat) : (s.setDirty l v).memRead b' off' = s.memRead b' off' := rfl
@[simp] theorem State.bankIdx_setDirty (s : State) (l : Nat) (v : Bool) (k' : Nat) : (s.setDirty l v).bankIdx k' = s.bankIdx k' := rfl
@[simp] theorem State.irqOf_setDirty (s : State) (l : Nat) (v : Bool) (c' : Nat) : (s.setDirty l v).irqOf c' = s.irqOf c' := rfl
@[simp] theorem State.irqEn_setDirty (s : State) (l : Nat) (v : Bool) (c' line' : Nat) : (s.setDirty l v).irqEn c' line' = s.irqEn c' line' := rfl
@[simp] theorem State.asserted_setDirty (s : State) (l : Nat) (v : Bool) (c' : Nat) (t' : IntType) : (s.setDirty l v).asserted c' t' = s.asserted c' t' := rfl
@[simp] theorem State.nmiEn_setDirty (s : State) (l : Nat) (v : Bool) (c' : Nat) : (s.setDirty l v).nmiEn c' = s.nmiEn c' := rfl
@[simp] theorem State.nmiPending_setDirty (s : State) (l : Nat) (v : Bool) (c' : Nat) : (s.setDirty l v).nmiPending c' = s.nmiPending c' := rfl
@[simp] theorem State.hsOf_setDirty (s : State) (l : Nat) (v : Bool) (h' : Nat) : (s.setDirty l v).hsOf h' = s.hsOf h' := rfl
@[simp] theorem State.linkOf_setDirty (s : State) (l : Nat) (v : Bool) (m' : Nat) : (s.setDirty l v).linkOf m' = s.linkOf m' := rfl
@[simp] theorem State.vregOf_setDirty (s : State) (l : Nat) (v : Bool) (l' : Nat) : (s.setDirty l v).vregOf l' = s.vregOf l' := rfl

/-! ### emit -/
@[simp] theorem State.emit_cfg (s : State) (o : Obs) : (s.emit o).cfg = s.cfg := rfl
@[simp] theorem State.emit_mem (s : State) (o : Obs) : (s.emit o).mem = s.mem := rfl
@[simp] theorem State.emit_bank (s : State) (o : Obs) : (s.emit o).bank = s.bank := rfl
@[simp] theorem State.emit_irq (s : State) (o : Obs) : (s.emit o).irq = s.irq := rfl
@[simp] theorem State.emit_hs (s : State) (o : Obs) : (s.emit o).hs = s.hs := rfl
@[simp] theorem State.emit_link (s : State) (o : Obs) : (s.emit o).link = s.link := rfl
@[simp] theorem State.emit_vreg (s : State) (o : Obs) : (s.emit o).vreg = s.vreg := rfl
@[simp] theorem State.emit_dirty (s : State) (o : Obs) : (s.emit o).dirty = s.dirty := rfl
@[simp] theorem State.emit_frame (s : State) (o : Obs) : (s.emit o).frame = s.frame := rfl
@[simp] theorem State.emit_round (s : State) (o : Obs) : (s.emit o).round = s.round := rfl
@[simp] theorem State.emit_turn (s : State) (o : Obs) : (s.emit o).turn = s.turn := rfl
@[simp] theorem State.emit_phase (s : State) (o : Obs) : (s.emit o).phase = s.phase := rfl
@[simp] theorem State.emit_yieldReq (s : State) (o : Obs) : (s.emit o).yieldReq = s.yieldReq := rfl
@[simp] theorem State.emit_fb (s : State) (o : Obs) : (s.emit o).fb = s.fb := rfl
@[simp] theorem State.emit_out (s : State) (o : Obs) : (s.emit o).out = s.out := rfl
@[simp] theorem State.emit_error (s : State) (o : Obs) : (s.emit o).error = s.error := rfl
@[simp] theorem State.emit_slicePos (s : State) (o : Obs) : (s.emit o).slicePos = s.slicePos := rfl
@[simp] theorem State.emit_draws (s : State) (o : Obs) : (s.emit o).draws = s.draws := rfl
@[simp] theorem State.emit_input (s : State) (o : Obs) : (s.emit o).input = s.input := rfl
@[simp] theorem State.emit_slot (s : State) (o : Obs) : (s.emit o).slot = s.slot := rfl
@[simp] theorem State.memRead_emit (s : State) (o : Obs) (b' off' : Nat) : (s.emit o).memRead b' off' = s.memRead b' off' := rfl
@[simp] theorem State.bankIdx_emit (s : State) (o : Obs) (k' : Nat) : (s.emit o).bankIdx k' = s.bankIdx k' := rfl
@[simp] theorem State.irqOf_emit (s : State) (o : Obs) (c' : Nat) : (s.emit o).irqOf c' = s.irqOf c' := rfl
@[simp] theorem State.irqEn_emit (s : State) (o : Obs) (c' line' : Nat) : (s.emit o).irqEn c' line' = s.irqEn c' line' := rfl
@[simp] theorem State.asserted_emit (s : State) (o : Obs) (c' : Nat) (t' : IntType) : (s.emit o).asserted c' t' = s.asserted c' t' := rfl
@[simp] theorem State.nmiEn_emit (s : State) (o : Obs) (c' : Nat) : (s.emit o).nmiEn c' = s.nmiEn c' := rfl
@[simp] theorem State.nmiPending_emit (s : State) (o : Obs) (c' : Nat) : (s.emit o).nmiPending c' = s.nmiPending c' := rfl
@[simp] theorem State.hsOf_emit (s : State) (o : Obs) (h' : Nat) : (s.emit o).hsOf h' = s.hsOf h' := rfl
@[simp] theorem State.linkOf_emit (s : State) (o : Obs) (m' : Nat) : (s.emit o).linkOf m' = s.linkOf m' := rfl
@[simp] theorem State.vregOf_emit (s : State) (o : Obs) (l' : Nat) : (s.emit o).vregOf l' = s.vregOf l' := rfl
@[simp] theorem State.dirtyOf_emit (s : State) (o : Obs) (l' : Nat) : (s.emit o).dirtyOf l' = s.dirtyOf l' := rfl

/-! ### drawn -/
@[simp] theorem State.drawn_cfg (s : State) : s.drawn.cfg = s.cfg := rfl
@[simp] theorem State.drawn_mem (s : State) : s.drawn.mem = s.mem := rfl
@[simp] theorem State.drawn_bank (s : State) : s.drawn.bank = s.bank := rfl
@[simp] theorem State.drawn_irq (s : State) : s.drawn.irq = s.irq := rfl
@[simp] theorem State.drawn_hs (s : State) : s.drawn.hs = s.hs := rfl
@[simp] theorem State.drawn_link (s : State) : s.drawn.link = s.link := rfl
@[simp] theorem State.drawn_vreg (s : State) : s.drawn.vreg = s.vreg := rfl
@[simp] theorem State.drawn_dirty (s : State) : s.drawn.dirty = s.dirty := rfl
@[simp] theorem State.drawn_frame (s : State) : s.drawn.frame = s.frame := rfl
@[simp] theorem State.drawn_round (s : State) : s.drawn.round = s.round := rfl
@[simp] theorem State.drawn_turn (s : State) : s.drawn.turn = s.turn := rfl
@[simp] theorem State.drawn_phase (s : State) : s.drawn.phase = s.phase := rfl
@[simp] theorem State.drawn_yieldReq (s : State) : s.drawn.yieldReq = s.yieldReq := rfl
@[simp] theorem State.drawn_fb (s : State) : s.drawn.fb = s.fb := rfl
@[simp] theorem State.drawn_out (s : State) : s.drawn.out = s.out := rfl
@[simp] theorem State.drawn_error (s : State) : s.drawn.error = s.error := rfl
@[simp] theorem State.drawn_slicePos (s : State) : s.drawn.slicePos = s.slicePos := rfl
@[simp] theorem State.drawn_input (s : State) : s.drawn.input = s.input := rfl
@[simp] theorem State.drawn_slot (s : State) : s.drawn.slot = s.slot := rfl
@[simp] theorem State.drawn_trace (s : State) : s.drawn.trace = s.trace := rfl
@[simp] theorem State.memRead_drawn (s : State) (b' off' : Nat) : s.drawn.memRead b' off' = s.memRead b' off' := rfl
@[simp] theorem State.bankIdx_drawn (s : State) (k' : Nat) : s.drawn.bankIdx k' = s.bankIdx k' := rfl
@[simp] theorem State.irqOf_drawn (s : State) (c' : Nat) : s.drawn.irqOf c' = s.irqOf c' := rfl
@[simp] theorem State.irqEn_drawn (s : State) (c' line' : Nat) : s.drawn.irqEn c' line' = s.irqEn c' line' := rfl
@[simp] theorem State.asserted_drawn (s : State) (c' : Nat) (t' : IntType) : s.drawn.asserted c' t' = s.asserted c' t' := rfl
@[simp] theorem State.nmiEn_drawn (s : State) (c' : Nat) : s.drawn.nmiEn c' = s.nmiEn c' := rfl
@[simp] theorem State.nmiPending_drawn (s : State) (c' : Nat) : s.drawn.nmiPending c' = s.nmiPending c' := rfl
@[simp] theorem State.hsOf_drawn (s : State) (h' : Nat) : s.drawn.hsOf h' = s.hsOf h' := rfl
@[simp] theorem State.linkOf_drawn (s : State) (m' : Nat) : s.drawn.linkOf m' = s.linkOf m' := rfl
@[simp] theorem State.vregOf_drawn (s : State) (l' : Nat) : s.drawn.vregOf l' = s.vregOf l' := rfl
@[simp] theorem State.dirtyOf_drawn (s : State) (l' : Nat) : s.drawn.dirtyOf l' = s.dirtyOf l' := rfl

/-! ### memWrite -/
@[simp] theorem State.memWrite_cfg (s : State) (b off : Nat) (v : Byte) : (s.memWrite b off v).cfg = s.cfg := by
  unfold State.memWrite; split <;> rfl
@[simp] theorem State.memWrite_bank (s : State) (b off : Nat) (v : Byte) : (s.memWrite b off v).bank = s.bank := by
  unfold State.memWrite; split <;> rfl
@[simp] theorem State.memWrite_irq (s : State) (b off : Nat) (v : Byte) : (s.memWrite b off v).irq = s.irq := by
  unfold State.memWrite; split <;> rfl
@[simp] theorem State.memWrite_hs (s : State) (b off : Nat) (v : Byte) : (s.memWrite b off v).hs = s.hs := by
  unfold State.memWrite; split <;> rfl
@[simp] theorem State.memWrite_link (s : State) (b off : Nat) (v : Byte) : (s.memWrite b off v).link = s.link := by
  unfold State.memWrite; split <;> rfl
@[simp] theorem State.memWrite_vreg (s : State) (b off : Nat) (v : Byte) : (s.memWrite b off v).vreg = s.vreg := by
  unfold State.memWrite; split <;> rfl
@[simp] theorem State.memWrite_dirty (s : State) (b off : Nat) (v : Byte) : (s.memWrite b off v).dirty = s.dirty := by
  unfold State.memWrite; split <;> rfl
@[simp] theorem State.memWrite_frame (s : State) (b off : Nat) (v : Byte) : (s.memWrite b off v).frame = s.frame := by
  unfold State.memWrite; split <;> rfl
@[simp] theorem State.memWrite_round (s : State) (b off : Nat) (v : Byte) : (s.memWrite b off v).round = s.round := by
  unfold State.memWrite; split <;> rfl
@[simp] theorem State.memWrite_turn (s : State) (b off : Nat) (v : Byte) : (s.memWrite b off v).turn = s.turn := by
  unfold State.memWrite; split <;> rfl
@[simp] theorem State.memWrite_phase (s : State) (b off : Nat) (v : Byte) : (s.memWrite b off v).phase = s.phase := by
  unfold State.memWrite; split <;> rfl
@[simp] theorem State.memWrite_yieldReq (s : State) (b off : Nat) (v : Byte) : (s.memWrite b off v).yieldReq = s.yieldReq := by
  unfold State.memWrite; split <;> rfl
@[simp] theorem State.memWrite_fb (s : State) (b off : Nat) (v : Byte) : (s.memWrite b off v).fb = s.fb := by
  unfold State.memWrite; split <;> rfl
@[simp] theorem State.memWrite_out (s : State) (b off : Nat) (v : Byte) : (s.memWrite b off v).out = s.out := by
  unfold State.memWrite; split <;> rfl
@[simp] theorem State.memWrite_error (s : State) (b off : Nat) (v : Byte) : (s.memWrite b off v).error = s.error := by
  unfold State.memWrite; split <;> rfl
@[simp] theorem State.memWrite_slicePos (s : State) (b off : Nat) (v : Byte) : (s.memWrite b off v).slicePos = s.slicePos := by
  unfold State.memWrite; split <;> rfl
@[simp] theorem State.memWrite_draws (s : State) (b off : Nat) (v : Byte) : (s.memWrite b off v).draws = s.draws := by
  unfold State.memWrite; split <;> rfl
@[simp] theorem State.memWrite_input (s : State) (b off : Nat) (v : Byte) : (s.memWrite b off v).input = s.input := by
  unfold State.memWrite; split <;> rfl
@[simp] theorem State.memWrite_slot (s : State) (b off : Nat) (v : Byte) : (s.memWrite b off v).slot = s.slot := by
  unfold State.memWrite; split <;> rfl
@[simp] theorem State.memWrite_trace (s : State) (b off : Nat) (v : Byte) : (s.memWrite b off v).trace = s.trace := by
  unfold State.memWrite; split <;> rfl
@[simp] theorem State.bankIdx_memWrite (s : State) (b off : Nat) (v : Byte) (k' : Nat) : (s.memWrite b off v).bankIdx k' = s.bankIdx k' := by
  unfold State.memWrite; split <;> rfl
@[simp] theorem State.irqOf_memWrite (s : State) (b off : Nat) (v : Byte) (c' : Nat) : (s.memWrite b off v).irqOf c' = s.irqOf c' := by
  unfold State.memWrite; split <;> rfl
@[simp] theorem State.irqEn_memWrite (s : State) (b off : Nat) (v : Byte) (c' line' : Nat) : (s.memWrite b off v).irqEn c' line' = s.irqEn c' line' := by
  unfold State.memWrite; split <;> rfl
@[simp] theorem State.asserted_memWrite (s : State) (b off : Nat) (v : Byte) (c' : Nat) (t' : IntType) : (s.memWrite b off v).asserted c' t' = s.asserted c' t' := by
  unfold State.memWrite; split <;> rfl
@[simp] theorem State.nmiEn_memWrite (s : State) (b off : Nat) (v : Byte) (c' : Nat) : (s.memWrite b off v).nmiEn c' = s.nmiEn c' := by
  unfold State.memWrite; split <;> rfl
@[simp] theorem State.nmiPending_memWrite (s : State) (b off : Nat) (v : Byte) (c' : Nat) : (s.memWrite b off v).nmiPending c' = s.nmiPending c' := by
  unfold State.memWrite; split <;> rfl
@[simp] theorem State.hsOf_memWrite (s : State) (b off : Nat) (v : Byte) (h' : Nat) : (s.memWrite b off v).hsOf h' = s.hsOf h' := by
  unfold State.memWrite; split <;> rfl
@[simp] theorem State.linkOf_memWrite (s : State) (b off : Nat) (v : Byte) (m' : Nat) : (s.memWrite b off v).linkOf m' = s.linkOf m' := by
  unfold State.memWrite; split <;> rfl
@[simp] theorem State.vregOf_memWrite (s : State) (b off : Nat) (v : Byte) (l' : Nat) : (s.memWrite b off v).vregOf l' = s.vregOf l' := by
  unfold State.memWrite; split <;> rfl
@[simp] theorem State.dirtyOf_memWrite (s : State) (b off : Nat) (v : Byte) (l' : Nat) : (s.memWrite b off v).dirtyOf l' = s.dirtyOf l' := by
  unfold State.memWrite; split <;> rfl

/-! ### The written part -/

@[simp] theorem State.emit_trace (s : State) (o : Obs) : (s.emit o).trace = o :: s.trace := rfl
@[simp] theorem State.drawn_draws (s : State) : s.drawn.draws = s.draws + 1 := rfl

end Sys2Proof.Machine
end

