-- ==== Sys2Proof/Laws/Ops.lean ====
section
/-! SUPPORT. One lemma per shared operation that says once what it does: what every accessor reads after a write, and
the shape of the state after each compound operation. -/

namespace Sys2Proof.Machine

/-! ### Outcomes -/

theorem Outcome.whenObject_true (t : State) : Outcome.whenObject true t = .next t := rfl

theorem Outcome.whenByte_true (t : State) : Outcome.whenByte true t = .next t := rfl

theorem Outcome.whenObject_eq_next {ok : Bool} {t u : State} :
    Outcome.whenObject ok t = .next u ↔ ok = true ∧ u = t := by
  cases ok <;> simp [Outcome.whenObject, eq_comm]

theorem Outcome.whenByte_eq_next {ok : Bool} {t u : State} : Outcome.whenByte ok t = .next u ↔ ok = true ∧ u = t := by
  cases ok <;> simp [Outcome.whenByte, eq_comm]

/-! ### Register arrays -/

theorem State.bankIdx_setBank (s : State) (k v k' : Nat) :
    (s.setBank k v).bankIdx k' = if k' = k then v else s.bankIdx k' := Sparse.get_set ..

theorem State.irqOf_setIrq (s : State) (c : Nat) (v : CpuIrq) (c' : Nat) :
    (s.setIrq c v).irqOf c' = if c' = c then v else s.irqOf c' := Sparse.get_set ..

theorem State.hsOf_setHs (s : State) (h : Nat) (v : HsRegs) (h' : Nat) :
    (s.setHs h v).hsOf h' = if h' = h then v else s.hsOf h' := Sparse.get_set ..

theorem State.linkOf_setLink (s : State) (m : Nat) (v : LinkRegs) (m' : Nat) :
    (s.setLink m v).linkOf m' = if m' = m then v else s.linkOf m' := Sparse.get_set ..

theorem State.vregOf_setVreg (s : State) (l : Nat) (v : VregRegs) (l' : Nat) :
    (s.setVreg l v).vregOf l' = if l' = l then v else s.vregOf l' := Sparse.get_set ..

theorem State.dirtyOf_setDirty (s : State) (l : Nat) (v : Bool) (l' : Nat) :
    (s.setDirty l v).dirtyOf l' = if l' = l then v else s.dirtyOf l' := Sparse.get_set ..

@[simp] theorem State.hsOf_setHs_self (s : State) (h : Nat) (v : HsRegs) : (s.setHs h v).hsOf h = v := by
  simp [hsOf_setHs]

@[simp] theorem State.linkOf_setLink_self (s : State) (m : Nat) (v : LinkRegs) : (s.setLink m v).linkOf m = v := by
  simp [linkOf_setLink]

@[simp] theorem State.vregOf_setVreg_self (s : State) (l : Nat) (v : VregRegs) : (s.setVreg l v).vregOf l = v := by
  simp [vregOf_setVreg]

/-! ### Interrupt state: the four views of one CPU's record -/

theorem IntType.code_inj {t t' : IntType} (h : t.code = t'.code) : t = t' := by
  cases t <;> cases t' <;> simp only [IntType.code, IntType.other.injEq, reduceCtorEq] at h ⊢ <;> omega

theorem State.irqEn_setIrqEn (s : State) (c line : Nat) (v : Bool) (c' line' : Nat) :
    (s.setIrqEn c line v).irqEn c' line' = if c' = c ∧ line' = line then v else s.irqEn c' line' := by
  unfold State.irqEn State.setIrqEn
  rw [irqOf_setIrq]
  by_cases hc : c' = c
  · subst hc; by_cases hl : line' = line <;> simp [Sparse.get_set, hl]
  · simp [hc]

@[simp] theorem State.asserted_setIrqEn (s : State) (c line : Nat) (v : Bool) (c' : Nat) (t : IntType) :
    (s.setIrqEn c line v).asserted c' t = s.asserted c' t := by
  unfold State.asserted State.setIrqEn
  rw [irqOf_setIrq]; split <;> simp_all

@[simp] theorem State.nmiEn_setIrqEn (s : State) (c line : Nat) (v : Bool) (c' : Nat) :
    (s.setIrqEn c line v).nmiEn c' = s.nmiEn c' := by
  unfold State.nmiEn State.setIrqEn
  rw [irqOf_setIrq]; split <;> simp_all

@[simp] theorem State.nmiPending_setIrqEn (s : State) (c line : Nat) (v : Bool) (c' : Nat) :
    (s.setIrqEn c line v).nmiPending c' = s.nmiPending c' := by
  unfold State.nmiPending State.setIrqEn
  rw [irqOf_setIrq]; split <;> simp_all

theorem State.asserted_setAsserted (s : State) (c : Nat) (t : IntType) (v : Assert) (c' : Nat) (t' : IntType) :
    (s.setAsserted c t v).asserted c' t' = if c' = c ∧ t' = t then v else s.asserted c' t' := by
  unfold State.asserted State.setAsserted
  rw [irqOf_setIrq]
  by_cases hc : c' = c
  · subst hc
    by_cases ht : t' = t
    · simp [ht]
    · have : t'.code ≠ t.code := fun h => ht (IntType.code_inj h)
      simp [Sparse.get_set, ht, this]
  · simp [hc]

@[simp] theorem State.irqEn_setAsserted (s : State) (c : Nat) (t : IntType) (v : Assert) (c' line : Nat) :
    (s.setAsserted c t v).irqEn c' line = s.irqEn c' line := by
  unfold State.irqEn State.setAsserted
  rw [irqOf_setIrq]; split <;> simp_all

@[simp] theorem State.nmiEn_setAsserted (s : State) (c : Nat) (t : IntType) (v : Assert) (c' : Nat) :
    (s.setAsserted c t v).nmiEn c' = s.nmiEn c' := by
  unfold State.nmiEn State.setAsserted
  rw [irqOf_setIrq]; split <;> simp_all

@[simp] theorem State.nmiPending_setAsserted (s : State) (c : Nat) (t : IntType) (v : Assert) (c' : Nat) :
    (s.setAsserted c t v).nmiPending c' = s.nmiPending c' := by
  unfold State.nmiPending State.setAsserted
  rw [irqOf_setIrq]; split <;> simp_all

theorem State.nmiEn_setNmiEn (s : State) (c : Nat) (v : Bool) (c' : Nat) :
    (s.setNmiEn c v).nmiEn c' = if c' = c then v else s.nmiEn c' := by
  unfold State.nmiEn State.setNmiEn
  rw [irqOf_setIrq]; split <;> simp_all

@[simp] theorem State.irqEn_setNmiEn (s : State) (c : Nat) (v : Bool) (c' line : Nat) :
    (s.setNmiEn c v).irqEn c' line = s.irqEn c' line := by
  unfold State.irqEn State.setNmiEn
  rw [irqOf_setIrq]; split <;> simp_all

@[simp] theorem State.asserted_setNmiEn (s : State) (c : Nat) (v : Bool) (c' : Nat) (t : IntType) :
    (s.setNmiEn c v).asserted c' t = s.asserted c' t := by
  unfold State.asserted State.setNmiEn
  rw [irqOf_setIrq]; split <;> simp_all

@[simp] theorem State.nmiPending_setNmiEn (s : State) (c : Nat) (v : Bool) (c' : Nat) :
    (s.setNmiEn c v).nmiPending c' = s.nmiPending c' := by
  unfold State.nmiPending State.setNmiEn
  rw [irqOf_setIrq]; split <;> simp_all

theorem State.nmiPending_setNmiPending (s : State) (c : Nat) (v : Bool) (c' : Nat) :
    (s.setNmiPending c v).nmiPending c' = if c' = c then v else s.nmiPending c' := by
  unfold State.nmiPending State.setNmiPending
  rw [irqOf_setIrq]; split <;> simp_all

@[simp] theorem State.irqEn_setNmiPending (s : State) (c : Nat) (v : Bool) (c' line : Nat) :
    (s.setNmiPending c v).irqEn c' line = s.irqEn c' line := by
  unfold State.irqEn State.setNmiPending
  rw [irqOf_setIrq]; split <;> simp_all

@[simp] theorem State.asserted_setNmiPending (s : State) (c : Nat) (v : Bool) (c' : Nat) (t : IntType) :
    (s.setNmiPending c v).asserted c' t = s.asserted c' t := by
  unfold State.asserted State.setNmiPending
  rw [irqOf_setIrq]; split <;> simp_all

@[simp] theorem State.nmiEn_setNmiPending (s : State) (c : Nat) (v : Bool) (c' : Nat) :
    (s.setNmiPending c v).nmiEn c' = s.nmiEn c' := by
  unfold State.nmiEn State.setNmiPending
  rw [irqOf_setIrq]; split <;> simp_all

/-! ### Memory -/

/-- A read after a write: the byte written, where the buffer is RAM and has the byte; every other byte as it was. -/
theorem State.memRead_memWrite (s : State) (b off : Nat) (v : Byte) (b' off' : Nat) :
    (s.memWrite b off v).memRead b' off' =
      if b' = b ∧ off' = off ∧ s.cfg.hasByte b off = true ∧ s.cfg.isRam b = true then v else s.memRead b' off' := by
  by_cases hw : s.cfg.hasByte b off = true ∧ s.cfg.isRam b = true
  · have hcond : (s.cfg.hasByte b off && s.cfg.isRam b) = true := by simp [hw]
    unfold State.memWrite
    rw [if_pos hcond]
    unfold State.memRead State.cells
    by_cases hb : b' = b
    · subst hb
      simp only [Sparse.get_set_self, Sparse.get_set]
      by_cases ho : off' = off
      · subst ho; simp [hw]
      · simp [ho]
    · simp [Sparse.get_set, hb]
  · have hcond : (s.cfg.hasByte b off && s.cfg.isRam b) = false := by
      rw [Bool.eq_false_iff]; simpa using hw
    unfold State.memWrite
    rw [hcond]
    simp only [Bool.false_eq_true, if_false]
    rw [if_neg (by tauto)]

/-- A byte of RAM that exists reads as what was last written to it. -/
theorem State.memRead_memWrite_self (s : State) {b off : Nat} (v : Byte) (hb : s.cfg.hasByte b off = true)
    (hr : s.cfg.isRam b = true) : (s.memWrite b off v).memRead b off = v := by
  rw [memRead_memWrite, if_pos ⟨rfl, rfl, hb, hr⟩]

/-- A ROM byte reads as its image (R23, R127). -/
theorem State.memRead_rom (s : State) {b off : Nat} (hb : s.cfg.hasByte b off = true) (hr : s.cfg.isRam b = false) :
    s.memRead b off = s.cfg.unwritten b off := by
  unfold State.memRead; simp [hb, hr]

/-- After RESET a byte reads as its image: `init` of ROM, `INIT_RAM` of RAM (R23, R330). -/
theorem State.memRead_empty (s : State) {b off : Nat} (hm : s.mem = []) (hb : s.cfg.hasByte b off = true) :
    s.memRead b off = s.cfg.unwritten b off := by
  unfold State.memRead State.cells; simp [hb, hm]

/-- The shape of a byte write: only memory changes. -/
theorem State.memWrite_shape (s : State) (b off : Nat) (v : Byte) : ∃ m, s.memWrite b off v = { s with mem := m } := by
  unfold State.memWrite; split
  · exact ⟨_, rfl⟩
  · exact ⟨s.mem, rfl⟩

/-! ### Dirty flags -/

/-- The shape of `setDirtyAll`: only the flags change. -/
theorem State.setDirtyAll_shape (s : State) (ls : List Nat) (v : Bool) :
    ∃ d, s.setDirtyAll ls v = { s with dirty := d } := by
  unfold State.setDirtyAll
  induction ls generalizing s with
  | nil => exact ⟨s.dirty, rfl⟩
  | cons l ls ih => obtain ⟨d, hd⟩ := ih (s.setDirty l v); exact ⟨d, hd⟩

theorem State.dirtyOf_setDirtyAll (s : State) (ls : List Nat) (v : Bool) (l : Nat) :
    (s.setDirtyAll ls v).dirtyOf l = if l ∈ ls then v else s.dirtyOf l := by
  unfold State.setDirtyAll
  induction ls generalizing s with
  | nil => simp
  | cons a ls ih =>
    rw [List.foldl_cons, ih, dirtyOf_setDirty]
    by_cases h : l ∈ ls
    · simp [h]
    · by_cases ha : l = a <;> simp [h, ha]

/-- The shape of `markDirty`. -/
theorem State.markDirty_shape (s : State) (b : Nat) : ∃ d, s.markDirty b = { s with dirty := d } :=
  setDirtyAll_shape ..

theorem Config.mem_layersOn (cfg : Config) (b l : Nat) :
    l ∈ cfg.layersOn b ↔ ∃ layer, cfg.layers[l]? = some layer ∧ layer.tileRam = b := by
  unfold Config.layersOn
  rw [List.mem_filter, List.mem_range]
  cases h : cfg.layers[l]? with
  | none => simp
  | some layer =>
    have : l < cfg.layers.length := (List.getElem?_eq_some_iff.1 h).1
    simp [this]

/-- `markDirty` sets the flag of every layer whose tile RAM is the buffer, and no other (R126, R237). -/
theorem State.dirtyOf_markDirty (s : State) (b l : Nat) :
    (s.markDirty b).dirtyOf l = if l ∈ s.cfg.layersOn b then true else s.dirtyOf l := dirtyOf_setDirtyAll ..

@[simp] theorem State.markDirty_cfg (s : State) (b : Nat) : (s.markDirty b).cfg = s.cfg := by
  obtain ⟨d, h⟩ := s.markDirty_shape b; rw [h]

@[simp] theorem State.memRead_markDirty (s : State) (b b' off : Nat) : (s.markDirty b).memRead b' off = s.memRead b' off := by
  obtain ⟨d, h⟩ := s.markDirty_shape b; rw [h]; rfl

/-- The shape of `storeByte`: only memory and the flags change. -/
theorem State.storeByte_shape (s : State) (b off : Nat) (v : Byte) :
    ∃ d, s.storeByte b off v = { s with mem := (s.memWrite b off v).mem, dirty := d } := by
  have hm : s.memWrite b off v = { s with mem := (s.memWrite b off v).mem } := by
    unfold State.memWrite; split <;> rfl
  obtain ⟨d, hd⟩ := (s.memWrite b off v).markDirty_shape b
  exact ⟨d, by rw [State.storeByte, hd, hm]⟩

/-- What `storeByte` stores. -/
theorem State.memRead_storeByte (s : State) (b off : Nat) (v : Byte) (b' off' : Nat) :
    (s.storeByte b off v).memRead b' off' =
      if b' = b ∧ off' = off ∧ s.cfg.hasByte b off = true ∧ s.cfg.isRam b = true then v else s.memRead b' off' := by
  rw [← memRead_memWrite]; exact memRead_markDirty ..

/-- `storeByte` marks the layers whose tile RAM the buffer is, and no other (R33, R75, R237). -/
theorem State.dirtyOf_storeByte (s : State) (b off : Nat) (v : Byte) (l : Nat) :
    (s.storeByte b off v).dirtyOf l =
      if l ∈ s.cfg.layersOn b then true else s.dirtyOf l := by
  rw [State.storeByte, dirtyOf_markDirty, memWrite_cfg, dirtyOf_memWrite]

/-! ### Interrupt operations -/

/-- `INT.ASSERT` joins the mode to the line (R163). -/
theorem State.asserted_assertLine (s : State) (c : Nat) (t : IntType) (mode : AssertMode) (c' : Nat) (t' : IntType) :
    (s.assertLine c t mode).asserted c' t' =
      if c' = c ∧ t' = t then Assert.max (s.asserted c t) (Assert.ofMode mode) else s.asserted c' t' :=
  asserted_setAsserted ..

/-- `INT.CLEAR` clears the line (R164). -/
theorem State.asserted_clearLine (s : State) (c : Nat) (t : IntType) (c' : Nat) (t' : IntType) :
    (s.clearLine c t).asserted c' t' = if c' = c ∧ t' = t then .none else s.asserted c' t' := asserted_setAsserted ..

@[simp] theorem State.irqEn_assertLine (s : State) (c : Nat) (t : IntType) (m : AssertMode) (c' line : Nat) :
    (s.assertLine c t m).irqEn c' line = s.irqEn c' line := irqEn_setAsserted ..
@[simp] theorem State.nmiEn_assertLine (s : State) (c : Nat) (t : IntType) (m : AssertMode) (c' : Nat) :
    (s.assertLine c t m).nmiEn c' = s.nmiEn c' := nmiEn_setAsserted ..
@[simp] theorem State.nmiPending_assertLine (s : State) (c : Nat) (t : IntType) (m : AssertMode) (c' : Nat) :
    (s.assertLine c t m).nmiPending c' = s.nmiPending c' := nmiPending_setAsserted ..
@[simp] theorem State.irqEn_clearLine (s : State) (c : Nat) (t : IntType) (c' line : Nat) :
    (s.clearLine c t).irqEn c' line = s.irqEn c' line := irqEn_setAsserted ..
@[simp] theorem State.nmiEn_clearLine (s : State) (c : Nat) (t : IntType) (c' : Nat) :
    (s.clearLine c t).nmiEn c' = s.nmiEn c' := nmiEn_setAsserted ..
@[simp] theorem State.nmiPending_clearLine (s : State) (c : Nat) (t : IntType) (c' : Nat) :
    (s.clearLine c t).nmiPending c' = s.nmiPending c' := nmiPending_setAsserted ..

/-- The shape of the interrupt operations: only the interrupt state changes. -/
theorem State.assertLine_shape (s : State) (c : Nat) (t : IntType) (m : AssertMode) :
    ∃ v, s.assertLine c t m = { s with irq := v } := ⟨_, rfl⟩

/-- See `assertLine_shape`. -/
theorem State.clearLine_shape (s : State) (c : Nat) (t : IntType) : ∃ v, s.clearLine c t = { s with irq := v } :=
  ⟨_, rfl⟩

/-- See `assertLine_shape`. -/
theorem State.triggerNmi_shape (s : State) (c : Nat) : ∃ v, s.triggerNmi c = { s with irq := v } := by
  unfold State.triggerNmi; split
  · exact ⟨_, rfl⟩
  · exact ⟨_, rfl⟩

/-- See `assertLine_shape`. -/
theorem State.assertOpt_shape (s : State) (a : Option LineAssert) : ∃ v, s.assertOpt a = { s with irq := v } := by
  cases a
  · exact ⟨s.irq, rfl⟩
  · exact ⟨_, rfl⟩

/-- See `assertLine_shape`. -/
theorem State.clearOpt_shape (s : State) (r : Option LineRef) : ∃ v, s.clearOpt r = { s with irq := v } := by
  cases r
  · exact ⟨s.irq, rfl⟩
  · exact ⟨_, rfl⟩

/-- The shape of a query: the interrupt state, and one event (R167). -/
theorem State.query_shape (s : State) (c : Nat) (early : Bool) :
    ∃ v, s.query c early = { s with irq := v, trace := .interrupt c (s.pickInterrupt c early) :: s.trace } := by
  unfold State.query
  cases s.pickInterrupt c early with
  | none => exact ⟨s.irq, rfl⟩
  | some t =>
    simp only
    split
    · exact ⟨_, rfl⟩
    · exact ⟨s.irq, rfl⟩

/-- What a query does to the assertions: a delivered PULSE is cleared, all else stays (R167). -/
theorem State.asserted_query (s : State) (c : Nat) (early : Bool) (c' : Nat) (t : IntType) :
    (s.query c early).asserted c' t =
      if c' = c ∧ s.pickInterrupt c early = some t ∧ s.asserted c t = .pulse then .none else s.asserted c' t := by
  unfold State.query
  cases s.pickInterrupt c early with
  | none => simp
  | some u =>
    dsimp only
    by_cases hp : s.asserted c u = .pulse
    · rw [if_pos hp, asserted_emit, asserted_setAsserted]
      by_cases hu : t = u
      · subst hu; simp [hp]
      · rw [if_neg (by simp [hu]), if_neg (by simp [Ne.symm hu])]
    · rw [if_neg hp, asserted_emit, if_neg]
      rintro ⟨-, h, h'⟩
      cases h
      exact hp h'

/-! ### Optional line operations of a configuration -/

@[simp] theorem State.irqEn_assertOpt (s : State) (a : Option LineAssert) (c line : Nat) :
    (s.assertOpt a).irqEn c line = s.irqEn c line := by cases a <;> simp [State.assertOpt]
@[simp] theorem State.nmiEn_assertOpt (s : State) (a : Option LineAssert) (c : Nat) :
    (s.assertOpt a).nmiEn c = s.nmiEn c := by cases a <;> simp [State.assertOpt]
@[simp] theorem State.nmiPending_assertOpt (s : State) (a : Option LineAssert) (c : Nat) :
    (s.assertOpt a).nmiPending c = s.nmiPending c := by cases a <;> simp [State.assertOpt]
@[simp] theorem State.irqEn_clearOpt (s : State) (r : Option LineRef) (c line : Nat) :
    (s.clearOpt r).irqEn c line = s.irqEn c line := by cases r <;> simp [State.clearOpt]
@[simp] theorem State.nmiEn_clearOpt (s : State) (r : Option LineRef) (c : Nat) :
    (s.clearOpt r).nmiEn c = s.nmiEn c := by cases r <;> simp [State.clearOpt]
@[simp] theorem State.nmiPending_clearOpt (s : State) (r : Option LineRef) (c : Nat) :
    (s.clearOpt r).nmiPending c = s.nmiPending c := by cases r <;> simp [State.clearOpt]

/-- What a configured clear does to the lines (R191, R201, R207). -/
theorem State.asserted_clearOpt (s : State) (r : Option LineRef) (c : Nat) (t : IntType) :
    (s.clearOpt r).asserted c t = if r = some ⟨c, t⟩ then .none else s.asserted c t := by
  cases r with
  | none => simp [State.clearOpt]
  | some r =>
    obtain ⟨rc, rt⟩ := r
    simp only [State.clearOpt, State.asserted_clearLine]
    by_cases h : c = rc ∧ t = rt
    · obtain ⟨rfl, rfl⟩ := h; simp
    · rw [if_neg h, if_neg]
      simp only [Option.some.injEq, LineRef.mk.injEq]
      rintro ⟨rfl, rfl⟩; exact h ⟨rfl, rfl⟩

/-- What a configured assertion does to the lines (R200, R208). -/
theorem State.asserted_assertOpt (s : State) (a : LineAssert) (c : Nat) (t : IntType) :
    (s.assertOpt (some a)).asserted c t =
      if c = a.cpu ∧ t = a.type then Assert.max (s.asserted c t) (Assert.ofMode a.mode) else s.asserted c t := by
  simp only [State.assertOpt, State.asserted_assertLine]
  by_cases h : c = a.cpu ∧ t = a.type
  · obtain ⟨rfl, rfl⟩ := h; simp
  · rw [if_neg h, if_neg h]

/-! ### Handshake bits -/

/-- Writing pending-for-secondary writes that bit alone (R190, R191). -/
theorem withPend_zero (p : BitVec 2) (v : Bool) :
    (withPend p 0 v).getLsbD 0 = v ∧ (withPend p 0 v).getLsbD 1 = p.getLsbD 1 := by revert p v; decide

/-- Writing pending-for-primary writes that bit alone (R192, R193). -/
theorem withPend_one (p : BitVec 2) (v : Bool) :
    (withPend p 1 v).getLsbD 1 = v ∧ (withPend p 1 v).getLsbD 0 = p.getLsbD 0 := by revert p v; decide

/-! ### Link operations -/

/-- The shape of `ACT.LATCH_FROM_MAIN` (R207). -/
theorem State.latchFromMain_shape (s : State) (m : Nat) :
    ∃ v, s.latchFromMain m =
      { s.setLink m { s.linkOf m with portAIn := (s.linkOf m).fromMain, mainSent := false } with irq := v } :=
  clearOpt_shape ..

/-- The shape of `ACT.SEND_TO_MAIN` (R208). -/
theorem State.sendToMain_shape (s : State) (m : Nat) :
    ∃ v, s.sendToMain m =
      { s.setLink m { s.linkOf m with
          fromMcu := portPins (s.linkOf m).latchA (s.linkOf m).ddrA (s.linkOf m).portAIn, mcuSent := true }
        with irq := v } := assertOpt_shape ..

end Sys2Proof.Machine
end

