-- ==== Sys2Proof/Laws/Setup.lean ====
section
/-! SUPPORT. What a configuration that passes the check of R300 gives, check by check. -/

namespace Sys2Proof.Machine

/-- An entry of a map, with its place, is one of the entries the check visits. -/
theorem Located.mem_all {cfg : Config} {c : Nat} {dir : Dir} {e : Entry} (h : e ∈ cfg.map c dir) :
    ⟨c, dir, e⟩ ∈ Located.all cfg := by
  have hc : c < cfg.cpus.length := by
    unfold Config.map at h
    cases hk : cfg.cpus[c]? with
    | none => rw [hk] at h; simp at h
    | some cpu => exact (List.getElem?_eq_some_iff.1 hk).1
  unfold Located.all
  rw [List.mem_flatMap]
  refine ⟨c, List.mem_range.2 hc, ?_⟩
  rw [List.mem_append]
  cases dir
  · exact .inl (List.mem_map.2 ⟨e, h, rfl⟩)
  · exact .inr (List.mem_map.2 ⟨e, h, rfl⟩)

/-- No entry fails a per-entry check where the check reports none. -/
theorem firstEntry_eq_none {cfg : Config} {code : CheckCode} {ok : Located → Bool} :
    firstEntry cfg code ok = none ↔ ∀ e ∈ Located.all cfg, ok e = true := by
  unfold firstEntry
  rw [Option.map_eq_none_iff, List.find?_eq_none]
  simp

/-- A configuration passes exactly where each of the nine checks does (R300). -/
theorem checkConfig_eq_none {cfg : Config} :
    checkConfig cfg = none ↔ firstEntry cfg .tag tagOk = none ∧ firstEntry cfg .direction (directionOk cfg) = none ∧
      firstEntry cfg .role (roleOk cfg) = none ∧ firstEntry cfg .range (rangeOk cfg) = none ∧
      overlapError cfg = none ∧ firstEntry cfg .bounds (boundsOk cfg) = none ∧ bankError cfg = none ∧
      firstEntry cfg .shared (sharedOk cfg) = none ∧ paramError cfg = none := by
  unfold checkConfig
  rw [List.findSome?_eq_none_iff]
  simp

/-- Every bank of a checked configuration meets R132. -/
theorem bankError_eq_none {cfg : Config} :
    bankError cfg = none ↔ ∀ k bank, cfg.banks[k]? = some bank → bankOk cfg k bank = true := by
  unfold bankError
  rw [List.findSome?_eq_none_iff]
  constructor
  · intro h k bank hk
    have := h k (List.mem_range.2 (List.getElem?_eq_some_iff.1 hk).1)
    rw [hk] at this
    by_contra hb
    simp [hb] at this
  · intro h k hk
    have hk' : cfg.banks[k]? = some (cfg.banks[k]'(List.mem_range.1 hk)) := List.getElem?_eq_getElem _
    rw [hk']
    simp [h k _ hk']

/-- Every parameter of a checked configuration is well formed. -/
theorem paramError_eq_none {cfg : Config} : paramError cfg = none ↔ ∀ p ∈ paramChecks cfg, p.2 = true := by
  unfold paramError
  rw [Option.map_eq_none_iff, List.find?_eq_none]
  simp

/-- The lists of a checked configuration neither overlap nor fall out of order. -/
theorem overlapError_eq_none {cfg : Config} (h : overlapError cfg = none) (c : Nat) (dir : Dir) :
    firstOverlap [] (cfg.map c dir) = none := by
  unfold overlapError at h
  rw [List.findSome?_eq_none_iff] at h
  by_cases hc : c < cfg.cpus.length
  · have := h c (List.mem_range.2 hc)
    rw [List.findSome?_eq_none_iff] at this
    have := this dir (by cases dir <;> simp)
    simpa using this
  · have : cfg.cpus[c]? = none := List.getElem?_eq_none (by omega)
    unfold Config.map; rw [this]; rfl

/-- Every entry of a list without overlaps may follow the entries before it. -/
theorem firstOverlap_eq_none {earlier es : List Entry} (h : firstOverlap earlier es = none) :
    (∀ x ∈ earlier, ∀ e ∈ es, overlaps x e = false ∧ x.start ≤ e.start) ∧
      es.Pairwise (fun x e => overlaps x e = false ∧ x.start ≤ e.start) := by
  induction es generalizing earlier with
  | nil => simp
  | cons e es ih =>
    rw [firstOverlap] at h
    split at h
    · rename_i hf
      obtain ⟨h1, h2⟩ := ih h
      simp only [follows, List.all_eq_true, Bool.and_eq_true, decide_eq_true_eq, Bool.not_eq_true'] at hf
      refine ⟨fun x hx y hy => ?_, ?_⟩
      · rcases List.mem_cons.1 hy with rfl | hy
        · exact hf x hx
        · exact h1 x (List.mem_append_left _ hx) y hy
      · rw [List.pairwise_cons]
        exact ⟨fun y hy => h1 e (by simp) y hy, h2⟩
    · simp at h

/-! ### The tests on numbers -/

/-- The running bit set tests pairwise difference. -/
theorem distinctFrom_iff {seen : Nat} {xs : List Nat} :
    distinctFrom seen xs = true ↔ xs.Nodup ∧ ∀ a ∈ xs, seen.testBit a = false := by
  induction xs generalizing seen with
  | nil => simp [distinctFrom]
  | cons a xs ih =>
    have bit : ∀ b, (seen ||| 1 <<< a).testBit b = (seen.testBit b || decide (b = a)) := by
      intro b
      rw [Nat.testBit_or, Nat.one_shiftLeft, Nat.testBit_two_pow]
      simp [eq_comm]
    rw [distinctFrom, Bool.and_eq_true, ih, List.nodup_cons]
    constructor
    · rintro ⟨h1, h2, h3⟩
      refine ⟨⟨fun ha => ?_, h2⟩, fun b hb => ?_⟩
      · have := h3 a ha; rw [bit] at this; simp at this
      · rcases List.mem_cons.1 hb with rfl | hb
        · simpa using h1
        · have := h3 b hb; rw [bit, Bool.or_eq_false_iff] at this; exact this.1
    · rintro ⟨⟨h1, h2⟩, h3⟩
      refine ⟨by simpa using h3 a (by simp), h2, fun b hb => ?_⟩
      rw [bit, h3 b (List.mem_cons_of_mem _ hb)]
      simp only [Bool.false_or, decide_eq_false_iff_not]
      rintro rfl; exact h1 hb

/-- From the empty set it tests that the numbers are pairwise distinct. -/
theorem distinctFrom_zero_iff {xs : List Nat} : distinctFrom 0 xs = true ↔ xs.Nodup := by
  rw [distinctFrom_iff]; simp

/-- A mask is a run of low bits exactly where it is `2^n - 1` for some n (R132). -/
theorem lowMask_iff {m : Nat} : lowMask m = true ↔ ∃ n, m = 2 ^ n - 1 := by
  have h : lowMask m = true ↔ m + 1 &&& m + 1 - 1 = 0 := by
    unfold lowMask; rw [beq_iff_eq, Nat.and_comm, Nat.add_sub_cancel]
  rw [h, Nat.and_sub_one_eq_zero_iff_isPowerOfTwo (Nat.succ_ne_zero m)]
  constructor
  · rintro ⟨n, hn⟩; exact ⟨n, by omega⟩
  · rintro ⟨n, rfl⟩; exact ⟨n, by have := Nat.one_le_two_pow (n := n); omega⟩

/-- What a tabulation lists. -/
theorem mem_tabulate {α : Type} {f : Nat → α} {k n : Nat} {x : α} :
    x ∈ tabulate f k n ↔ ∃ i < n, f (k + i) = x := by
  induction n generalizing k with
  | zero => simp [tabulate]
  | succ n ih =>
    rw [tabulate, List.mem_cons, ih]
    constructor
    · rintro (rfl | ⟨i, hi, rfl⟩)
      · exact ⟨0, by omega, rfl⟩
      · exact ⟨i + 1, by omega, by rw [Nat.add_right_comm, Nat.add_assoc]⟩
    · rintro ⟨i, hi, rfl⟩
      cases i with
      | zero => exact .inl rfl
      | succ i => exact .inr ⟨i, by omega, by rw [Nat.add_right_comm, Nat.add_assoc]⟩

/-- A tabulation lists each value once exactly where the function is injective below n. -/
theorem nodup_tabulate {f : Nat → Nat} {k n : Nat} :
    (tabulate f k n).Nodup ↔ ∀ i < n, ∀ j < n, f (k + i) = f (k + j) → i = j := by
  induction n generalizing k with
  | zero => simp [tabulate]
  | succ n ih =>
    rw [tabulate, List.nodup_cons, ih, mem_tabulate]
    have shift : ∀ i, k + 1 + i = k + (i + 1) := fun i => by omega
    simp only [shift]
    constructor
    · rintro ⟨h1, h2⟩ i hi j hj h
      cases i with
      | zero =>
        cases j with
        | zero => rfl
        | succ j => exact absurd ⟨j, by omega, h.symm⟩ h1
      | succ i =>
        cases j with
        | zero => exact absurd ⟨i, by omega, h⟩ h1
        | succ j => rw [h2 i (by omega) j (by omega) h]
    · intro h
      refine ⟨?_, fun i hi j hj e => ?_⟩
      · rintro ⟨i, hi, e⟩
        have := h (i + 1) (by omega) 0 (by omega) e
        omega
      · have := h (i + 1) (by omega) (j + 1) (by omega) e
        omega

end Sys2Proof.Machine
end

