-- ==== Sys2Proof/Laws/Check.lean ====
section
/-! SUPPORT. Each test of CONFIG.CHECK (Machine/Setup.lean) against its wording (Safety.lean): the Bool that the
meaning computes holds exactly where the proposition does. -/

namespace Sys2Proof.Machine

theorem Config.hasByte_iff {cfg : Config} {b o : Nat} : cfg.hasByte b o = true ↔ ∃ kind, cfg.HasByteOf b o kind := by
  unfold Config.hasByte Config.HasByteOf
  cases cfg.buffers[b]? <;> simp
theorem Config.isRam_iff {cfg : Config} {b : Nat} : cfg.isRam b = true ↔ ∃ buf, cfg.buffers[b]? = some buf ∧
    buf.kind = .ram := by
  unfold Config.isRam; cases cfg.buffers[b]? <;> simp
theorem isRom_iff {cfg : Config} {b : Nat} : isRom cfg b = true ↔ ∃ buf, cfg.buffers[b]? = some buf ∧
    buf.kind = .rom := by
  unfold isRom; cases cfg.buffers[b]? <;> simp

theorem tagOk_eq_false (cfg c dir before e) : EntryFails cfg c dir before e .tag ↔ tagOk ⟨c, dir, e⟩ = false := by
  unfold EntryFails tagOk; cases e.cap <;> simp
theorem directionOk_eq_false (cfg : Config) (c dir before e) : EntryFails cfg c dir before e .direction ↔
    directionOk cfg ⟨c, dir, e⟩ = false := by
  obtain ⟨st, sp, cap⟩ := e
  cases cap <;> cases dir <;> simp [EntryFails, directionOk, Cap.WriteOnly, Cap.ReadOnly]
  rename_i k
  cases cfg.banks[k]? with
  | none => simp
  | some bank =>
    simp only [Option.some.injEq, exists_eq_left', Bool.not_eq_eq_eq_not, Bool.not_false, isRom_iff]
theorem roleOk_eq_false (cfg : Config) (c dir before e) :
    EntryFails cfg c dir before e .role ↔ roleOk cfg ⟨c, dir, e⟩ = false := by
  obtain ⟨st, sp, cap⟩ := e
  cases cap <;> cases dir <;> simp [EntryFails, roleOk, Config.HsPrimary, Config.HsSecondary, Config.LinkPrimary,
    Config.LinkMcu]
theorem rangeOk_eq_false (cfg : Config) (c dir before e) :
    EntryFails cfg c dir before e .range ↔ rangeOk cfg ⟨c, dir, e⟩ = false := by
  simp only [EntryFails, rangeOk]
  cases h : cfg.cpus[c]? with
  | none => simp
  | some cpu => simp
theorem boundsOk_eq_false (cfg : Config) (c dir before e) :
    EntryFails cfg c dir before e .bounds ↔ boundsOk cfg ⟨c, dir, e⟩ = false := by
  obtain ⟨st, sp, cap⟩ := e
  simp only [EntryFails, boundsOk, Config.hasByte, Config.isRam, isRom, Config.HasByteOf]
  cases cap <;> simp
  case ram b o => cases cfg.buffers[b]? with
    | none => simp
    | some buf => simp; exact ⟨fun h a b => absurd (h b) (by omega), fun h a => by by_contra hc; exact h (by omega) a⟩
  case rom b o => cases cfg.buffers[b]? with
    | none => simp
    | some buf => simp; exact ⟨fun h a b => absurd (h b) (by omega), fun h a => by by_contra hc; exact h (by omega) a⟩
  case palette b o => cases cfg.buffers[b]? with
    | none => simp
    | some buf =>
      simp
      cases dir <;> simp
theorem sharedOk_eq_false (cfg : Config) (c dir before e) :
    EntryFails cfg c dir before e .shared ↔ sharedOk cfg ⟨c, dir, e⟩ = false := by
  obtain ⟨st, sp, cap⟩ := e
  cases cap <;> simp [EntryFails, sharedOk]
  rename_i r
  cases h : cfg.shared[r]? with
  | none => simp
  | some region =>
    simp [bufSize]
    cases h : cfg.buffers[region.buffer]? with
    | none => simp
    | some buf => simp
theorem follows_eq_false (cfg : Config) (c dir before e) : EntryFails cfg c dir before e .overlap ↔
    follows before e = false := by
  simp only [EntryFails, follows, overlaps, List.all_eq_false]
  constructor
  · rintro ⟨x, hx, h⟩; refine ⟨x, hx, ?_⟩; simp; omega
  · rintro ⟨x, hx, h⟩; refine ⟨x, hx, ?_⟩; simp at h; omega

theorem Located.mem_all_iff {cfg : Config} {l : Located} : l ∈ Located.all cfg ↔ l.entry ∈ cfg.map l.cpu l.dir := by
  constructor
  · intro he
    unfold Located.all at he
    rw [List.mem_flatMap] at he
    obtain ⟨c', _, he⟩ := he
    rw [List.mem_append, List.mem_map, List.mem_map] at he
    rcases he with ⟨x, hx, e'⟩ | ⟨x, hx, e'⟩ <;> cases e' <;> exact hx
  · exact fun h => Located.mem_all h

theorem Located.all_all {cfg : Config} {f : Located → Bool} :
    (Located.all cfg).all f = true ↔ ∀ c dir, ∀ e ∈ cfg.map c dir, f ⟨c, dir, e⟩ = true := by
  rw [List.all_eq_true]
  exact ⟨fun h c dir e he => h _ (Located.mem_all_iff.2 he), fun h l hl => h _ _ _ (Located.mem_all_iff.1 hl)⟩

theorem bankOk_iff (cfg : Config) (k bank) (h : cfg.banks[k]? = some bank) : cfg.BankOk k ↔
    bankOk cfg k bank = true := by
  unfold Config.BankOk bankOk
  simp only [h, Bool.and_eq_true, lowMask_iff, Option.some.injEq]
  constructor
  · rintro ⟨_, buf, rfl, hb, hm, hs, ha⟩
    refine ⟨⟨hm, ?_⟩, ?_⟩
    · simp [bufSize, hb, hs]
    · rw [List.all_eq_true]
      rintro ⟨c, dir, e⟩ he
      have : e ∈ cfg.map c dir := Located.mem_all_iff.1 he
      by_cases hc : e.cap = .banked k
      · simp [ha c dir e this hc]
      · simp [hc]
  · rintro ⟨⟨hm, hs⟩, ha⟩
    unfold bufSize at hs
    cases hb : cfg.buffers[bank.region]? with
    | none => rw [hb] at hs; simp at hs
    | some buf =>
      rw [hb] at hs
      refine ⟨bank, buf, rfl, hb, hm, by simpa using hs, ?_⟩
      intro c dir e he hc
      rw [List.all_eq_true] at ha
      have := ha _ (Located.mem_all he)
      simpa [hc] using this

theorem hasLine_iff {cfg : Config} {c l} : cfg.hasLine c l = true ↔ cfg.LineExists c l := by
  unfold Config.hasLine Config.LineExists
  cases cfg.cpus[c]? with
  | none => simp
  | some cpu =>
    simp only [Option.some.injEq, List.any_eq_true, beq_iff_eq, Prod.exists]
    exact ⟨fun ⟨a, b, h, e⟩ => ⟨cpu, b, rfl, e ▸ h⟩, fun ⟨c, t, e, h⟩ => ⟨l, t, e ▸ h, rfl⟩⟩
theorem hasLatch_iff {cfg : Config} {c} : hasLatch cfg c = true ↔ cfg.Latched c := by
  unfold hasLatch Config.Latched
  cases cfg.cpus[c]? <;> simp
theorem lineOk_iff {cfg : Config} {c t} : lineOk cfg c t = true ↔ cfg.TypeOn c t := by
  simp [lineOk, Config.TypeOn, Config.hasCpu, Config.hasType]
theorem refsOk_iff {cfg : Config} {c dir e} : refsOk cfg ⟨c, dir, e⟩ = true ↔ cfg.RefsExist e.cap := by
  obtain ⟨st, sp, cap⟩ := e
  cases cap <;> simp [refsOk, Config.RefsExist, hasLine_iff, hasLatch_iff, Config.hasLayer]
  rw [← lineOk_iff]; simp [lineOk]
theorem clearOk_iff {cfg : Config} {r} : clearOk cfg r = true ↔ ∀ x, r = some x → cfg.TypeOn x.cpu x.type := by
  cases r <;> simp [clearOk, lineOk_iff]
theorem assertOk_iff {cfg : Config} {r} : assertOk cfg r = true ↔ ∀ x, r = some x → cfg.TypeOn x.cpu x.type := by
  cases r <;> simp [assertOk, lineOk_iff]

theorem ownerOk_iff {cfg : Config} {r region o} : ownerOk cfg r region o = true ↔
    o.cpu < cfg.cpus.length ∧ (∃ buf, cfg.buffers[region.buffer]? = some buf ∧ o.stop + 1 - o.start = buf.size) ∧
      ∀ dir, ⟨o.start, o.stop, .shared r⟩ ∈ cfg.map o.cpu dir := by
  have : (∀ dir : Dir, (⟨o.start, o.stop, .shared r⟩ : Entry) ∈ cfg.map o.cpu dir) ↔ ∀ dir ∈ [Dir.read, .write],
      (⟨o.start, o.stop, .shared r⟩ : Entry) ∈ cfg.map o.cpu dir := by
    constructor
    · intro h d _; exact h d
    · intro h d; exact h d (by cases d <;> simp)
  rw [this]
  unfold ownerOk bufSize Config.hasCpu
  simp only [Bool.and_eq_true, decide_eq_true_eq, beq_iff_eq, List.all_eq_true, List.any_eq_true, exists_eq_right,
    and_assoc]
  cases cfg.buffers[region.buffer]? <;> simp [eq_comm (a := BufferCfg.size _)]

theorem regionsOk_iff {cfg : Config} : regionsOk cfg = true ↔ ParamOk cfg .shared := by
  unfold regionsOk ParamOk
  rw [List.all_eq_true]
  constructor
  · intro h r region hr
    have := h r (List.mem_range.2 (List.getElem?_eq_some_iff.1 hr).1)
    rw [hr] at this
    simp only [Bool.and_eq_true, Config.isRam_iff, List.all_eq_true, ownerOk_iff] at this
    obtain ⟨⟨buf, hb, hk⟩, ho⟩ := this
    refine ⟨buf, hb, hk, fun o hm => ?_⟩
    obtain ⟨h1, ⟨b, h2, h3⟩, h4⟩ := ho o hm
    rw [hb] at h2; cases h2
    exact ⟨h1, h3, h4⟩
  · intro h r hr
    have hk : cfg.shared[r]? = some (cfg.shared[r]'(List.mem_range.1 hr)) := List.getElem?_eq_getElem _
    rw [hk]
    obtain ⟨buf, hb, hk, ho⟩ := h r _ hk
    simp only [Bool.and_eq_true, Config.isRam_iff, List.all_eq_true, ownerOk_iff]
    refine ⟨⟨buf, hb, hk⟩, fun o hm => ?_⟩
    obtain ⟨h1, h2, h3⟩ := ho o hm
    exact ⟨h1, ⟨buf, hb, h2⟩, h3⟩

theorem handshakeOk_iff {cfg : Config} {hc} : handshakeOk cfg hc = true ↔ hc.primary < cfg.cpus.length ∧
    hc.secondary < cfg.cpus.length ∧
    (∀ r, hc.cmdReadClear = some r → cfg.TypeOn r.cpu r.type) ∧
    (∀ a, hc.cmdEffect = .assert a → cfg.TypeOn a.cpu a.type) ∧ ∀ c, hc.cmdEffect = .nmiTrigger c → cfg.Latched c := by
  unfold handshakeOk
  simp only [Bool.and_eq_true, clearOk_iff, Config.hasCpu, decide_eq_true_eq, and_assoc]
  cases hc.cmdEffect <;> simp [lineOk_iff, hasLatch_iff]

theorem linkOk_iff {cfg : Config} {lc} : linkOk cfg lc = true ↔ lc.primary < cfg.cpus.length ∧
    lc.mcu < cfg.cpus.length ∧
    (∀ g ∈ lc.triggers, g.bit < 8) ∧ lc.statusReadyBit < 8 ∧ lc.statusResultBit < 8 ∧
    lc.statusReadyBit ≠ lc.statusResultBit ∧
    (∀ a, (lc.mainWriteAssert = some a ∨ lc.sendAssert = some a) → cfg.TypeOn a.cpu a.type) ∧
    ∀ r, (lc.latchClear = some r ∨ lc.dataReadClear = some r) → cfg.TypeOn r.cpu r.type := by
  unfold linkOk
  simp only [Bool.and_eq_true, clearOk_iff, assertOk_iff, Config.hasCpu, decide_eq_true_eq, and_assoc,
    List.all_eq_true, bne_iff_ne]
  constructor
  · rintro ⟨a, b, c, d, e, f, g, h, i, j⟩; exact ⟨a, b, c, d, e, f, fun x hx => hx.elim (g x) (h x),
      fun x hx => hx.elim (i x) (j x)⟩
  · rintro ⟨a, b, c, d, e, f, g, h⟩; exact ⟨a, b, c, d, e, f, fun x hx => g x (.inl hx), fun x hx => g x (.inr hx),
      fun x hx => h x (.inl hx), fun x hx => h x (.inr hx)⟩

theorem layerOk_iff {cfg : Config} {l : LayerCfg} : layerOk cfg l = true ↔ l.Ok cfg := by
  unfold layerOk LayerCfg.Ok
  simp only [Bool.and_eq_true, decide_eq_true_eq, and_assoc, List.all_eq_true, mem_tabulate, distinctFrom_zero_iff,
    nodup_tabulate, Bool.or_eq_true, beq_iff_eq, Nat.zero_add]
  have hb : ∀ {f : Nat → Nat}, (∀ x, (∃ i < l.cols * l.rows, f i = x) → cfg.hasByte l.tileRam x = true) ↔
      ∀ i < l.cols * l.rows, cfg.hasByte l.tileRam (f i) = true := by
    intro f; exact ⟨fun h i hi => h _ ⟨i, hi, rfl⟩, by rintro h x ⟨i, hi, rfl⟩; exact h i hi⟩
  rw [hb, hb]
  have hf : (∀ x, (∃ i < 256, i = x) → l.flipxFn.apply [x] ≤ 1 ∧ l.flipyFn.apply [x] ≤ 1) ↔ ∀ x < 256,
      l.flipxFn.apply [x] ≤ 1 ∧ l.flipyFn.apply [x] ≤ 1 := by
    exact ⟨fun h i hi => h _ ⟨i, hi, rfl⟩, by rintro h x ⟨i, hi, rfl⟩; exact h i hi⟩
  rw [hf, Config.isRam_iff]
  unfold Config.hasByte
  constructor
  · rintro ⟨⟨buf, hb, hk⟩, h1, h2, h3, h4, h5, h6, h7, h8, h9, h10, h11⟩
    rw [hb] at h7 h8
    simp only [decide_eq_true_eq] at h7 h8
    exact ⟨h1, h2, h3, h4, h5, h6, ⟨buf, hb, hk, fun c hc => ⟨h7 c hc, h8 c hc⟩⟩,
      fun i hi j hj h => h.elim (h9 i hi j hj) (h10 i hi j hj), h11⟩
  · rintro ⟨h1, h2, h3, h4, h5, h6, ⟨buf, hb, hk, h7⟩, h8, h9⟩
    rw [hb]
    simp only [decide_eq_true_eq]
    exact ⟨⟨buf, rfl, hk⟩, h1, h2, h3, h4, h5, h6, fun c hc => (h7 c hc).1, fun c hc => (h7 c hc).2,
      fun i hi j hj h => h8 i hi j hj (.inl h), fun i hi j hj h => h8 i hi j hj (.inr h), h9⟩

theorem priorityOk_iff {cfg : Config} : priorityOk cfg = true ↔ ParamOk cfg .intPriority := by
  unfold priorityOk ParamOk
  have hn : (cfg.intPriority.map (·.code)).Nodup ↔ cfg.intPriority.Nodup :=
    List.nodup_map_iff (fun a b h => IntType.code_inj h)
  simp only [Bool.and_eq_true, distinctFrom_zero_iff, hn, List.all_eq_true, List.any_eq_true, Config.hasType,
    beq_iff_eq, exists_eq_right]
  exact ⟨fun ⟨⟨a, b⟩, c⟩ => ⟨c, fun t => ⟨a t, b t⟩⟩, fun ⟨c, a⟩ => ⟨⟨fun t h => (a t).1 h, fun t h => (a t).2 h⟩, c⟩⟩

theorem layoutOk_iff {l : LayerCfg} : layoutOk l = true ↔ (l.vregLayout.map (·.1)).Nodup ∧
    (l.vregLayout.map (·.2)).Nodup := by
  unfold layoutOk
  have : (l.vregLayout.map fun p => VregField.index p.2) = (l.vregLayout.map (·.2)).map VregField.index := by simp
  rw [Bool.and_eq_true, distinctFrom_zero_iff, distinctFrom_zero_iff, this, List.nodup_map_iff (f := VregField.index)]
  intro a b; cases a <;> cases b <;> simp [VregField.index]

theorem perm_range_iff {l : List Nat} {n : Nat} : l.Perm (List.range n) ↔ l.length = n ∧ (∀ x ∈ l, x < n) ∧
    l.Nodup := by
  constructor
  · intro h
    exact ⟨by simpa using h.length_eq, fun x hx => List.mem_range.1 (h.subset hx), h.nodup_iff.2 List.nodup_range⟩
  · rintro ⟨h1, h2, h3⟩
    exact (h3.subperm fun x hx => List.mem_range.2 (h2 x hx)).perm_of_length_le (by simp [h1])

theorem optField_iff {ok : SpriteField → Bool} {o : Option SpriteField} : optField ok o = true ↔ ∀ f ∈ o.toList,
    ok f = true := by
  cases o <;> simp [optField]

theorem spritesOk_iff {cfg : Config} : spritesOk cfg = true ↔ cfg.sprites.Ok cfg := by
  unfold spritesOk SpriteCfg.Ok
  simp only [Bool.and_eq_true, optField_iff, distinctFrom_zero_iff, fieldOk, fieldOf, decide_eq_true_eq, beq_iff_eq,
    List.all_eq_true, Config.isRam_iff, perm_range_iff, bufSize]
  constructor
  · rintro ⟨⟨⟨⟨⟨⟨⟨⟨⟨⟨⟨⟨⟨⟨⟨⟨⟨⟨buf, hb, hk⟩, hs⟩, h1⟩, h2⟩, h3⟩, y⟩, cl⟩, xb⟩, ch⟩, xe⟩, co⟩, fx⟩, fy⟩, sz⟩, pr⟩, o1⟩,
      o2⟩, o3⟩
    refine ⟨⟨buf, hb, hk, by simpa [hb] using hs⟩, h1, h2, h3, ?_, ?_, ?_, sz.2, o1, o2, o3⟩
    · intro f hf
      simp only [List.mem_append, List.mem_cons, List.not_mem_nil, or_false] at hf
      rcases hf with ((((rfl | rfl | rfl | rfl | rfl | rfl | rfl) | hf) | hf) | hf)
      · exact y.1
      · exact cl.1
      · exact xb.1
      · exact co
      · exact fx.1
      · exact fy.1
      · exact sz.1
      · exact ch f hf
      · exact (xe f hf).1
      · exact pr f hf
    · intro f hf
      simp only [List.mem_cons, List.not_mem_nil, or_false] at hf
      rcases hf with rfl | rfl | rfl
      · exact y.2
      · exact cl.2
      · exact xb.2
    · intro f hf
      simp only [List.mem_append, List.mem_cons, List.not_mem_nil, or_false] at hf
      rcases hf with (rfl | rfl) | hf
      · exact fx.2
      · exact fy.2
      · exact (xe f hf).2
  · rintro ⟨⟨buf, hb, hk, hs⟩, h1, h2, h3, hf, h8, hw, sz, o1, o2, o3⟩
    have M : ∀ f, f ∈ [cfg.sprites.layout.y, cfg.sprites.layout.codeLo, cfg.sprites.layout.xByte,
          cfg.sprites.layout.color, cfg.sprites.layout.flipX, cfg.sprites.layout.flipY, cfg.sprites.layout.size] ∨
        f ∈ cfg.sprites.layout.codeHi.toList ∨ f ∈ cfg.sprites.layout.xExt.toList ∨
        f ∈ cfg.sprites.layout.prio.toList → f.byte < cfg.sprites.stride ∧ f.lo + f.width ≤ 8 := by
      intro f h; apply hf; simp only [List.mem_append]; tauto
    refine ⟨⟨⟨⟨⟨⟨⟨⟨⟨⟨⟨⟨⟨⟨⟨⟨⟨⟨buf, hb, hk⟩, by simpa [hb] using hs⟩, h1⟩, h2⟩, h3⟩, ?_⟩, ?_⟩, ?_⟩, ?_⟩, ?_⟩, ?_⟩, ?_⟩,
      ?_⟩, ?_⟩, ?_⟩, o1⟩, o2⟩, o3⟩
    · exact ⟨M _ (.inl (by simp)), h8 _ (by simp)⟩
    · exact ⟨M _ (.inl (by simp)), h8 _ (by simp)⟩
    · exact ⟨M _ (.inl (by simp)), h8 _ (by simp)⟩
    · intro f h; exact M f (.inr (.inl h))
    · intro f h; exact ⟨M f (.inr (.inr (.inl h))), hw f (List.mem_append_right _ h)⟩
    · exact M _ (.inl (by simp))
    · exact ⟨M _ (.inl (by simp)), hw _ (by simp)⟩
    · exact ⟨M _ (.inl (by simp)), hw _ (by simp)⟩
    · exact ⟨M _ (.inl (by simp)), sz⟩
    · intro f h; exact M f (.inr (.inr (.inr h)))

theorem paletteOk_iff {cfg : Config} : paletteOk cfg = true ↔ ParamOk cfg .palette := by
  unfold paletteOk ParamOk
  simp only [Bool.and_eq_true, decide_eq_true_eq, List.all_eq_true, mem_tabulate, Nat.zero_add, List.mem_append,
    Config.hasByte_iff, and_assoc]
  refine and_congr_right fun _ => and_congr_right fun _ => ?_
  constructor
  · intro h i hi f hf off ho
    refine h i ⟨i, hi, rfl⟩ off ?_
    simp only [List.mem_cons, List.not_mem_nil, or_false] at hf
    rcases hf with rfl | rfl | rfl
    · exact .inl (.inl ho)
    · exact .inl (.inr ho)
    · exact .inr ho
  · rintro h _ ⟨i, hi, rfl⟩ off ho
    rcases ho with (ho | ho) | ho
    · exact h i hi _ (by simp) off ho
    · exact h i hi _ (by simp) off ho
    · exact h i hi _ (by simp) off ho

theorem drawItemsOk_iff {cfg : Config} : cfg.drawOrder.all (drawItemOk cfg) = true ↔ ParamOk cfg .drawOrder := by
  unfold ParamOk
  rw [List.all_eq_true]
  refine forall_congr' fun item => forall_congr' fun _ => ?_
  cases item with
  | layer l => simp [drawItemOk, Config.hasLayer]
  | sprites p =>
    cases p with
    | none => simp only [drawItemOk]; cases cfg.sprites.layout.prio <;> simp
    | some p => simp only [drawItemOk]; cases cfg.sprites.layout.prio <;> simp

theorem irqenBitsOk_iff (cfg : Config) : ((Located.all cfg).all fun e => irqenBitOk e) = true ↔
    ParamOk cfg .irqenBit := by
  unfold ParamOk
  rw [Located.all_all]
  refine forall_congr' fun c => forall_congr' fun dir => forall_congr' fun e => forall_congr' fun _ => ?_
  obtain ⟨st, sp, cap⟩ := e
  cases cap <;> simp [irqenBitOk]

theorem paramChecks_iff (cfg : Config) : ∀ p ∈ paramChecks cfg, (p.2 = true ↔ ParamOk cfg p.1) := by
  intro p hp
  simp only [paramChecks, List.mem_cons, List.not_mem_nil, or_false] at hp
  rcases hp with rfl | rfl | rfl | rfl | rfl | rfl | rfl | rfl | rfl | rfl | rfl | rfl | rfl | rfl | rfl | rfl | rfl
    | rfl | rfl | rfl | rfl | rfl | rfl
  · simp [ParamOk]
  · simp [ParamOk]
  · simp only [ParamOk]; rw [Located.all_all]
    constructor
    · intro h c e he; have := h c .read e he; simpa [refsOk_iff] using this
    · intro h c dir e he; cases dir
      · simp [refsOk_iff, h c e he]
      · simp
  · simp only [ParamOk]; rw [Located.all_all]
    constructor
    · intro h c e he; have := h c .write e he; simpa [refsOk_iff] using this
    · intro h c dir e he; cases dir
      · simp
      · simp [refsOk_iff, h c e he]
  · exact regionsOk_iff
  · simp [ParamOk]
  · simp [ParamOk]
  · simp [ParamOk, Config.hasType]
  · exact priorityOk_iff
  · simp [ParamOk, Config.hasType]
  · exact irqenBitsOk_iff cfg
  · simp [ParamOk, ← Bool.not_eq_true, imp_iff_not_or]
  · simp only [ParamOk, List.all_eq_true, handshakeOk_iff]
  · simp only [ParamOk, List.all_eq_true, linkOk_iff]
  · simp [ParamOk]
  · simp only [ParamOk, List.all_eq_true, layerOk_iff]
  · simp only [ParamOk, List.all_eq_true, layoutOk_iff]
  · simp only [ParamOk, List.all_eq_true]
    refine forall_congr' fun l => forall_congr' fun _ => ?_
    unfold vctrlOk; cases l.vctrlIrq <;> simp [hasLine_iff]
  · simp [ParamOk, Config.hasLayer]
  · simp [ParamOk]
  · exact spritesOk_iff
  · exact paletteOk_iff
  · exact drawItemsOk_iff

end Sys2Proof.Machine
end

