-- ==== Sys2Proof/Laws/Compositor.lean ====
section
/-! SUPPORT. The compositor's shared operations: a tabulated screen pixel by pixel, and the shape of each drawing step:
it changes the frame buffer alone. -/

namespace Sys2Proof.Machine

theorem tabulate_getElem? {α : Type} (f : Nat → α) (k n i : Nat) :
    (tabulate f k n)[i]? = if i < n then some (f (k + i)) else none := by
  induction n generalizing k i with
  | zero => simp [tabulate]
  | succ n ih =>
    rw [tabulate]
    cases i with
    | zero => simp
    | succ i => rw [List.getElem?_cons_succ, ih]; simp [Nat.add_assoc, Nat.add_comm 1 i]

@[simp] theorem tabulate_length {α : Type} (f : Nat → α) (k n : Nat) : (tabulate f k n).length = n := by
  induction n generalizing k with
  | zero => rfl
  | succ n ih => rw [tabulate, List.length_cons, ih]

/-- A painted pixel of the screen: what the painter gives it, else what it was. -/
theorem pixelAt_paint (cfg : Config) (fb : List (List Nat)) (f : Nat → Nat → Option Nat) {x y : Nat}
    (hx : x < cfg.screenW) (hy : y < cfg.screenH) :
    pixelAt (paint cfg fb f) x y = (f x y).getD (pixelAt fb x y) := by
  rw [pixelAt, paint, tabulate_getElem?, if_pos hy, Option.bind_some, tabulate_getElem?, if_pos hx]
  simp

/-- A pixel of the filled screen (R271). -/
theorem pixelAt_fillScreen (cfg : Config) (p : Nat) {x y : Nat} (hx : x < cfg.screenW) (hy : y < cfg.screenH) :
    pixelAt (fillScreen cfg p) x y = p := by
  rw [pixelAt, fillScreen]; simp [hx, hy]

/-- The shape of `LAYER.DRAW` (R258). -/
theorem State.drawLayer_shape (s : State) (l : Nat) (fs : Bool) : ∃ fb, s.drawLayer l fs = { s with fb := fb } := by
  unfold State.drawLayer; split
  · exact ⟨_, rfl⟩
  · exact ⟨s.fb, rfl⟩

/-- A fold of steps that change the frame buffer alone changes the frame buffer alone. -/
theorem foldl_fb_shape {β : Type} {f : State → β → State} (hf : ∀ t b, ∃ fb, f t b = { t with fb := fb })
    (bs : List β) (s : State) : ∃ fb, bs.foldl f s = { s with fb := fb } := by
  induction bs generalizing s with
  | nil => exact ⟨s.fb, rfl⟩
  | cons b bs ih =>
    obtain ⟨fb, h⟩ := hf s b
    rw [List.foldl_cons, h]
    obtain ⟨fb', h'⟩ := ih { s with fb := fb }
    exact ⟨fb', h'⟩

/-- The shape of one item of `DRAW_ORDER` (R252). -/
theorem State.drawItem_shape (s : State) (fs : Bool) (item : DrawItem) : ∃ fb, s.drawItem fs item = { s with fb := fb } := by
  cases item with
  | layer l => exact s.drawLayer_shape l fs
  | sprites p =>
    apply foldl_fb_shape
    intro t i
    split
    · split
      · exact ⟨_, rfl⟩
      · exact ⟨t.fb, rfl⟩
    · exact ⟨t.fb, rfl⟩

/-- The shape of the drawing of a frame (R252). -/
theorem State.drawFrame_shape (s : State) : ∃ fb, s.drawFrame = { s with fb := fb } := by
  obtain ⟨fb, h⟩ := foldl_fb_shape (fun t item => t.drawItem_shape s.flipScreen item) s.cfg.drawOrder
    { s with fb := fillScreen s.cfg s.cfg.palette.bgPen }
  exact ⟨fb, h⟩

/-- The shape of `COMPOSE` (R252): the frame buffer, the dirty flags, the frame output and one event. -/
theorem State.composed_shape (s : State) : ∃ fb d out,
    s.composed = { s with fb := fb, dirty := d, out := some out, trace := .frame out :: s.trace } := by
  obtain ⟨fb, h⟩ := s.drawFrame_shape
  obtain ⟨d, h'⟩ := s.drawFrame.setDirtyAll_shape (List.range s.cfg.layers.length) false
  unfold State.composed
  rw [h] at h' ⊢
  rw [h']
  exact ⟨fb, d, _, rfl⟩

end Sys2Proof.Machine
end

