-- ==== Sys2Proof/Laws/Wf.lean ====
section
/-! SUPPORT. The canonical form: every memory operation and every register write keeps it, and reset has it. -/

namespace Sys2Proof.Machine

/-- The bytes of one buffer are canonical, in RAM, and inside the buffer. -/
theorem Memory.wf_iff (cfg : Config) (m : Memory) :
    Memory.wf cfg m = true ↔ Sparse.wf (fun _ => []) m = true ∧
      ∀ p ∈ m, cfg.isRam p.1 = true ∧ Sparse.wf (cfg.unwritten p.1) p.2 = true ∧
        ∀ c ∈ p.2, cfg.hasByte p.1 c.1 = true := by
  simp only [Memory.wf, Bool.and_eq_true, List.all_eq_true, and_assoc]

/-- The bytes of a buffer in canonical memory. -/
theorem Memory.cells_wf {cfg : Config} {m : Memory} (h : Memory.wf cfg m = true) (b : Nat) :
    Sparse.wf (cfg.unwritten b) (Sparse.get (fun _ => []) m b) = true ∧
      ∀ c ∈ Sparse.get (fun _ => ([] : List Host.Cell)) m b, cfg.hasByte b c.1 = true := by
  rw [Memory.wf_iff] at h
  rcases Sparse.get_mem_or_dflt (fun _ => ([] : List Host.Cell)) m b with he | he
  · rw [he]; simp
  · exact (h.2 _ he).2

/-- A byte write keeps the canonical form of memory (R23). -/
theorem State.memWrite_wf (s : State) (b off : Nat) (v : Byte) (h : Memory.wf s.cfg s.mem = true) :
    Memory.wf s.cfg (s.memWrite b off v).mem = true := by
  unfold State.memWrite
  split
  · rename_i hw
    simp only [Bool.and_eq_true] at hw
    have hc := Memory.cells_wf h b
    rw [Memory.wf_iff] at h ⊢
    refine ⟨Sparse.wf_set _ _ h.1, fun p hp => ?_⟩
    rcases Sparse.mem_set (dflt := fun _ => []) hp with ⟨rfl, -⟩ | hp
    · refine ⟨hw.2, Sparse.wf_set _ _ hc.1, fun c hc' => ?_⟩
      rcases Sparse.mem_set hc' with ⟨rfl, -⟩ | hc'
      · exact hw.1
      · exact hc.2 c hc'
    · exact h.2 p hp
  · exact h

theorem State.storeByte_mem (s : State) (b off : Nat) (v : Byte) :
    (s.storeByte b off v).mem = (s.memWrite b off v).mem := by
  obtain ⟨d, h⟩ := s.storeByte_shape b off v; rw [h]

/-- A store keeps the canonical form of memory. -/
theorem State.storeByte_wf (s : State) (b off : Nat) (v : Byte) (h : Memory.wf s.cfg s.mem = true) :
    Memory.wf s.cfg (s.storeByte b off v).mem = true := by
  rw [storeByte_mem]; exact memWrite_wf s b off v h

/-- One CPU's interrupt record is canonical. -/
def CpuIrq.wf (v : CpuIrq) : Bool :=
  Sparse.wf (fun _ => false) v.irqEn && Sparse.wf (fun _ => Assert.none) v.asserted

/-- The parts of the canonical form. -/
theorem State.wf_iff (s : State) :
    s.wf = true ↔ Memory.wf s.cfg s.mem = true ∧ Sparse.wf (fun _ => 0) s.bank = true ∧
      (Sparse.wf (fun _ => CpuIrq.reset) s.irq = true ∧ ∀ p ∈ s.irq, CpuIrq.wf p.2 = true) ∧
      Sparse.wf (fun _ => HsRegs.reset) s.hs = true ∧ Sparse.wf (fun _ => LinkRegs.reset) s.link = true ∧
      Sparse.wf (fun _ => VregRegs.reset) s.vreg = true ∧ Sparse.wf (fun _ => true) s.dirty = true := by
  simp only [State.wf, CpuIrq.wf, Bool.and_eq_true, List.all_eq_true, and_assoc]

/-- The canonical form rests on these fields only. -/
theorem State.wf_congr {s t : State} (hc : t.cfg = s.cfg) (hm : t.mem = s.mem) (hb : t.bank = s.bank)
    (hi : t.irq = s.irq) (hh : t.hs = s.hs) (hl : t.link = s.link) (hv : t.vreg = s.vreg) (hd : t.dirty = s.dirty) :
    t.wf = s.wf := by
  simp only [State.wf, hc, hm, hb, hi, hh, hl, hv, hd]

theorem State.irqOf_wf {s : State} (h : s.wf = true) (c : Nat) : CpuIrq.wf (s.irqOf c) = true := by
  rw [wf_iff] at h
  rcases Sparse.get_mem_or_dflt (fun _ => CpuIrq.reset) s.irq c with he | he
  · rw [State.irqOf, he]; rfl
  · exact h.2.2.1.2 _ he

theorem State.wf_memWrite {s : State} (h : s.wf = true) (b off : Nat) (v : Byte) : (s.memWrite b off v).wf = true := by
  rw [wf_iff] at *
  simp only [memWrite_cfg, memWrite_bank, memWrite_irq, memWrite_hs, memWrite_link, memWrite_vreg, memWrite_dirty]
  exact ⟨memWrite_wf s b off v h.1, h.2⟩

theorem State.wf_setBank {s : State} (h : s.wf = true) (k v : Nat) : (s.setBank k v).wf = true := by
  rw [wf_iff] at *
  exact ⟨h.1, Sparse.wf_set _ _ h.2.1, h.2.2⟩

theorem State.wf_setIrq {s : State} (h : s.wf = true) (c : Nat) {v : CpuIrq} (hv : v.wf = true) :
    (s.setIrq c v).wf = true := by
  rw [wf_iff] at *
  refine ⟨h.1, h.2.1, ⟨Sparse.wf_set _ _ h.2.2.1.1, fun p hp => ?_⟩, h.2.2.2⟩
  rcases Sparse.mem_set (dflt := fun _ => CpuIrq.reset) hp with ⟨rfl, -⟩ | hp
  · exact hv
  · exact h.2.2.1.2 p hp

theorem State.wf_setIrqEn {s : State} (h : s.wf = true) (c line : Nat) (v : Bool) : (s.setIrqEn c line v).wf = true := by
  have hi := irqOf_wf h c
  simp only [CpuIrq.wf, Bool.and_eq_true] at hi
  exact wf_setIrq h c (by simp only [CpuIrq.wf, Bool.and_eq_true]; exact ⟨Sparse.wf_set _ _ hi.1, hi.2⟩)

theorem State.wf_setAsserted {s : State} (h : s.wf = true) (c : Nat) (t : IntType) (v : Assert) :
    (s.setAsserted c t v).wf = true := by
  have hi := irqOf_wf h c
  simp only [CpuIrq.wf, Bool.and_eq_true] at hi
  exact wf_setIrq h c (by simp only [CpuIrq.wf, Bool.and_eq_true]; exact ⟨hi.1, Sparse.wf_set _ _ hi.2⟩)

theorem State.wf_setNmiEn {s : State} (h : s.wf = true) (c : Nat) (v : Bool) : (s.setNmiEn c v).wf = true :=
  wf_setIrq h c (irqOf_wf h c)

theorem State.wf_setNmiPending {s : State} (h : s.wf = true) (c : Nat) (v : Bool) : (s.setNmiPending c v).wf = true :=
  wf_setIrq h c (irqOf_wf h c)

theorem State.wf_setHs {s : State} (h : s.wf = true) (k : Nat) (v : HsRegs) : (s.setHs k v).wf = true := by
  rw [wf_iff] at *
  exact ⟨h.1, h.2.1, h.2.2.1, Sparse.wf_set _ _ h.2.2.2.1, h.2.2.2.2⟩

theorem State.wf_setLink {s : State} (h : s.wf = true) (m : Nat) (v : LinkRegs) : (s.setLink m v).wf = true := by
  rw [wf_iff] at *
  exact ⟨h.1, h.2.1, h.2.2.1, h.2.2.2.1, Sparse.wf_set _ _ h.2.2.2.2.1, h.2.2.2.2.2⟩

theorem State.wf_setVreg {s : State} (h : s.wf = true) (l : Nat) (v : VregRegs) : (s.setVreg l v).wf = true := by
  rw [wf_iff] at *
  exact ⟨h.1, h.2.1, h.2.2.1, h.2.2.2.1, h.2.2.2.2.1, Sparse.wf_set _ _ h.2.2.2.2.2.1, h.2.2.2.2.2.2⟩

theorem State.wf_setDirty {s : State} (h : s.wf = true) (l : Nat) (v : Bool) : (s.setDirty l v).wf = true := by
  rw [wf_iff] at *
  exact ⟨h.1, h.2.1, h.2.2.1, h.2.2.2.1, h.2.2.2.2.1, h.2.2.2.2.2.1, Sparse.wf_set _ _ h.2.2.2.2.2.2⟩

theorem State.wf_setDirtyAll {s : State} (h : s.wf = true) (ls : List Nat) (v : Bool) :
    (s.setDirtyAll ls v).wf = true := by
  unfold State.setDirtyAll
  induction ls generalizing s with
  | nil => exact h
  | cons l ls ih => exact ih (wf_setDirty h l v)

theorem State.wf_storeByte {s : State} (h : s.wf = true) (b off : Nat) (v : Byte) : (s.storeByte b off v).wf = true := by
  exact wf_setDirtyAll (wf_memWrite h b off v) _ _

theorem State.wf_emit {s : State} (h : s.wf = true) (o : Obs) : (s.emit o).wf = true := h

theorem State.wf_drawn {s : State} (h : s.wf = true) : s.drawn.wf = true := h

/-- The memory after reset is canonical: it lists nothing. -/
theorem State.reset_mem_wf : Memory.wf State.reset.cfg State.reset.mem = true := rfl

/-- Every table after reset is canonical. -/
theorem State.reset_wf : State.reset.wf = true := rfl

end Sys2Proof.Machine
end

