-- ==== Sys2Proof/Laws/Control.lean ====
section
/-! SUPPORT. What an operation, a slice and a frame do to the block as a whole: they keep the registers consistent, and
move the scheduler as R310 and R311 say. -/

namespace Sys2Proof.Machine

/-- The register values that the spec excludes do not stand in the state: its tables are canonical, every bank index lies
within its mask (R24), an NMI is pending only while NMIs are disabled (R162, R165). -/
structure State.Consistent (s : State) : Prop where
  wf : s.wf = true
  bank : ∀ k bank, s.cfg.banks[k]? = some bank → s.bankIdx k ≤ bank.mask
  nmi : ∀ c, s.nmiPending c = true → s.nmiEn c = false

/-- t has the configuration, the scheduler position, the frame state and the script as s has them. -/
structure SameControl (s t : State) : Prop where
  cfg : t.cfg = s.cfg
  phase : t.phase = s.phase
  error : t.error = s.error
  turn : t.turn = s.turn
  round : t.round = s.round
  frame : t.frame = s.frame
  fb : t.fb = s.fb
  out : t.out = s.out
  pos : t.slicePos = s.slicePos
  input : t.input = s.input
  slot : t.slot = s.slot

theorem SameControl.refl (s) : SameControl s s := ⟨rfl, rfl, rfl, rfl, rfl, rfl, rfl, rfl, rfl, rfl, rfl⟩
theorem SameControl.trans {s t u} (h : SameControl s t) (g : SameControl t u) : SameControl s u :=
  ⟨g.cfg.trans h.cfg, g.phase.trans h.phase, g.error.trans h.error, g.turn.trans h.turn, g.round.trans h.round, g.frame.trans h.frame, g.fb.trans h.fb, g.out.trans h.out, g.pos.trans h.pos, g.input.trans h.input, g.slot.trans h.slot⟩

/-- t keeps the consistency and the control state of s. -/
def Kept (s t : State) : Prop := (State.Consistent s → State.Consistent t) ∧ SameControl s t
theorem Kept.refl (s) : Kept s s := ⟨id, .refl s⟩
theorem Kept.trans {s t u} (h : Kept s t) (g : Kept t u) : Kept s u := ⟨g.1 ∘ h.1, h.2.trans g.2⟩


theorem Kept.setHs (s k v) : Kept s (s.setHs k v) := ⟨fun h => ⟨State.wf_setHs h.wf _ _, h.bank, h.nmi⟩, ⟨rfl, rfl, rfl, rfl, rfl, rfl, rfl, rfl, rfl, rfl, rfl⟩⟩
theorem Kept.setLink (s k v) : Kept s (s.setLink k v) := ⟨fun h => ⟨State.wf_setLink h.wf _ _, h.bank, h.nmi⟩, ⟨rfl, rfl, rfl, rfl, rfl, rfl, rfl, rfl, rfl, rfl, rfl⟩⟩
theorem Kept.setVreg (s k v) : Kept s (s.setVreg k v) := ⟨fun h => ⟨State.wf_setVreg h.wf _ _, h.bank, h.nmi⟩, ⟨rfl, rfl, rfl, rfl, rfl, rfl, rfl, rfl, rfl, rfl, rfl⟩⟩
theorem Kept.setDirty (s k v) : Kept s (s.setDirty k v) := ⟨fun h => ⟨State.wf_setDirty h.wf _ _, h.bank, h.nmi⟩, ⟨rfl, rfl, rfl, rfl, rfl, rfl, rfl, rfl, rfl, rfl, rfl⟩⟩
theorem Kept.emit (s k) : Kept s (s.emit k) := ⟨fun h => ⟨h.wf, h.bank, h.nmi⟩, ⟨rfl, rfl, rfl, rfl, rfl, rfl, rfl, rfl, rfl, rfl, rfl⟩⟩
theorem Kept.drawn (s) : Kept s (s.drawn) := ⟨fun h => ⟨h.wf, h.bank, h.nmi⟩, ⟨rfl, rfl, rfl, rfl, rfl, rfl, rfl, rfl, rfl, rfl, rfl⟩⟩
theorem Kept.yield (s w) : Kept s (s.yield w) := ⟨fun h => ⟨h.wf, h.bank, h.nmi⟩, ⟨rfl, rfl, rfl, rfl, rfl, rfl, rfl, rfl, rfl, rfl, rfl⟩⟩
theorem Kept.setIrqEn (s c l v) : Kept s (s.setIrqEn c l v) := ⟨fun h => ⟨State.wf_setIrqEn h.wf _ _ _, h.bank, fun c' => by simpa using h.nmi c'⟩, ⟨rfl, rfl, rfl, rfl, rfl, rfl, rfl, rfl, rfl, rfl, rfl⟩⟩
theorem Kept.setAsserted (s c l v) : Kept s (s.setAsserted c l v) := ⟨fun h => ⟨State.wf_setAsserted h.wf _ _ _, h.bank, fun c' => by simpa using h.nmi c'⟩, ⟨rfl, rfl, rfl, rfl, rfl, rfl, rfl, rfl, rfl, rfl, rfl⟩⟩
theorem Kept.assertLine (s c l v) : Kept s (s.assertLine c l v) := Kept.setAsserted ..
theorem Kept.clearLine (s c l) : Kept s (s.clearLine c l) := Kept.setAsserted ..
theorem Kept.assertOpt (s a) : Kept s (s.assertOpt a) := by
  cases a with
  | none => exact Kept.refl _
  | some a => exact Kept.assertLine ..
theorem Kept.clearOpt (s a) : Kept s (s.clearOpt a) := by
  cases a with
  | none => exact Kept.refl _
  | some a => exact Kept.clearLine ..
theorem Kept.triggerNmi (s c) : Kept s (s.triggerNmi c) := by
  unfold State.triggerNmi; split
  · exact Kept.assertLine ..
  · rename_i hn
    refine ⟨fun h => ⟨State.wf_setNmiPending h.wf _ _, h.bank, ?_⟩, ⟨rfl, rfl, rfl, rfl, rfl, rfl, rfl, rfl, rfl, rfl, rfl⟩⟩
    intro c' hp
    rw [State.nmiPending_setNmiPending] at hp
    rw [State.nmiEn_setNmiPending]
    split at hp
    · rename_i e; subst e; simpa using hn
    · exact h.nmi _ hp
theorem Kept.memWrite (s b o v) : Kept s (s.memWrite b o v) := by
  refine ⟨fun h => ⟨State.wf_memWrite h.wf _ _ _, ?_, ?_⟩, ?_⟩
  · simpa using h.bank
  · simpa using h.nmi
  · unfold State.memWrite; split
    · exact ⟨rfl, rfl, rfl, rfl, rfl, rfl, rfl, rfl, rfl, rfl, rfl⟩
    · exact .refl s
theorem Kept.setDirtyAll (s ls v) : Kept s (s.setDirtyAll ls v) := by
  induction ls generalizing s with
  | nil => exact Kept.refl s
  | cons l ls ih => exact (Kept.setDirty s l v).trans (ih _)
theorem Kept.markDirty (s b) : Kept s (s.markDirty b) := Kept.setDirtyAll ..
theorem Kept.storeByte (s b o v) : Kept s (s.storeByte b o v) := by
  exact (Kept.memWrite ..).trans (Kept.markDirty ..)
theorem Kept.setBank (s k v) (h : ∀ bank, s.cfg.banks[k]? = some bank → v ≤ bank.mask) : Kept s (s.setBank k v) := by
  refine ⟨fun g => ⟨State.wf_setBank g.wf _ _, ?_, g.nmi⟩, ⟨rfl, rfl, rfl, rfl, rfl, rfl, rfl, rfl, rfl, rfl, rfl⟩⟩
  intro k' bank hk
  rw [State.bankIdx_setBank]; split
  · rename_i e; subst e; exact h _ hk
  · exact g.bank _ _ hk
theorem Kept.query (s c e) : Kept s (s.query c e) := by
  unfold State.query; split
  · exact Kept.emit ..
  · split
    · exact (Kept.setAsserted ..).trans (Kept.emit ..)
    · exact Kept.emit ..
theorem Kept.latch (s m) : Kept s (s.latchFromMain m) := (Kept.setLink ..).trans (Kept.clearOpt ..)
theorem Kept.send (s m) : Kept s (s.sendToMain m) := (Kept.setLink ..).trans (Kept.assertOpt ..)
theorem Kept.runTriggers (m ts o n) : ∀ s, Kept s (State.runTriggers s m ts o n) := by
  induction ts with
  | nil => exact Kept.refl
  | cons g ts ih =>
    intro s
    have e : s.runTriggers m (g :: ts) o n = (if g.fires o n then s.portAction m g.action else s).runTriggers m ts o n := rfl
    rw [e]; split
    · refine Kept.trans ?_ (ih _)
      cases g.action
      · exact Kept.latch ..
      · exact Kept.send ..
    · exact ih _
theorem Kept.commandEffect (s e) : Kept s (State.commandEffect s e) := by
  cases e with
  | none => exact Kept.refl _
  | assert a => exact Kept.assertLine ..
  | nmiTrigger c => exact Kept.triggerNmi ..
theorem Kept.ctrl (s l d) : Kept s (s.writeVctrl l d) := by
  unfold State.writeVctrl
  dsimp only
  split
  · exact (Kept.setVreg ..).trans (Kept.setIrqEn ..)
  · exact Kept.setVreg ..
theorem Kept.vbank (s l d) : Kept s (s.writeVbank l d) := (Kept.setVreg ..).trans (Kept.setDirty ..)

/-- The state a guarded meaning answers. -/
theorem Outcome.eq_of_whenObject {ok : Bool} {t u : State} (h : Outcome.whenObject ok t = .next u) : u = t := (Outcome.whenObject_eq_next.1 h).2
/-- See `Outcome.eq_of_whenObject`. -/
theorem Outcome.eq_of_whenByte {ok : Bool} {t u : State} (h : Outcome.whenByte ok t = .next u) : u = t := (Outcome.whenByte_eq_next.1 h).2

theorem Kept.nmien (s : State) (c : Nat) (cpu : CpuCfg) (d : Byte) : Kept s (if (bitOf d cpu.nmienBit && s.nmiPending c) = true then ((s.setNmiEn c (bitOf d cpu.nmienBit)).setNmiPending c false).assertLine c .nmi .pulse else s.setNmiEn c (bitOf d cpu.nmienBit)) := by
  split
  · refine Kept.trans (t := (s.setNmiEn c (bitOf d cpu.nmienBit)).setNmiPending c false) ?_ (Kept.assertLine ..)
    refine ⟨fun h => ⟨State.wf_setNmiPending (State.wf_setNmiEn h.wf _ _) _ _, h.bank, ?_⟩, ⟨rfl, rfl, rfl, rfl, rfl, rfl, rfl, rfl, rfl, rfl, rfl⟩⟩
    intro c' hp
    rw [State.nmiPending_setNmiPending] at hp
    split at hp
    · cases hp
    · rename_i hne
      rw [State.nmiEn_setNmiPending, State.nmiEn_setNmiEn, if_neg hne]
      exact h.nmi _ (by simpa using hp)
  · rename_i hn
    refine ⟨fun h => ⟨State.wf_setNmiEn h.wf _ _, h.bank, ?_⟩, ⟨rfl, rfl, rfl, rfl, rfl, rfl, rfl, rfl, rfl, rfl, rfl⟩⟩
    intro c' hp
    rw [State.nmiPending_setNmiEn] at hp
    rw [State.nmiEn_setNmiEn]; split
    · rename_i e; subst e; simpa [hp] using hn
    · exact h.nmi _ hp

/-- What an operation that a transaction selects can do to the block as a whole: nothing but to its registers. -/
theorem performTxn_kept (i : Instr) (s t : State) (h : performTxn i s = .next t) : Kept s t := by
  cases i <;> simp only [performTxn] at h <;> try (cases h; done)
  case rdOpen c a => simp only [execRdOpen] at h; split at h <;> cases h; exact Kept.emit ..
  case wrOpen c a d => cases h; exact Kept.refl _
  case rdRam => cases Outcome.eq_of_whenByte h; exact Kept.emit ..
  case wrRam => cases Outcome.eq_of_whenByte h; exact Kept.storeByte ..
  case rdRom => cases Outcome.eq_of_whenByte h; exact Kept.emit ..
  case rdBank => simp only [execRdBank] at h; split at h; (· cases Outcome.eq_of_whenByte h; exact Kept.emit ..); cases h
  case wrBank => simp only [execWrBank] at h; split at h; (· cases Outcome.eq_of_whenByte h; exact Kept.storeByte ..); cases h
  case wrBanksel =>
    simp only [execWrBanksel] at h; split at h
    · rename_i bank hb; cases h; refine Kept.setBank _ _ _ ?_
      intro b' hb'; rw [hb] at hb'; cases hb'; exact Nat.and_le_right
    · cases h
  case rdShared => simp only [execRdShared] at h; split at h; (· cases Outcome.eq_of_whenByte h; exact Kept.emit ..); cases h
  case wrShared => simp only [execWrShared] at h; split at h; (· cases Outcome.eq_of_whenByte h; exact Kept.storeByte ..); cases h
  case wrIrqen => cases Outcome.eq_of_whenObject h; exact Kept.setIrqEn ..
  case wrNmien =>
    simp only [execWrNmien] at h; split at h
    · cases h; exact Kept.nmien ..
    · cases h
  case wrIrqclr => cases Outcome.eq_of_whenObject h; exact Kept.clearLine ..
  case wrHsCmd =>
    simp only [execWrHsCmd] at h; split at h
    · cases h; split
      · exact ((Kept.setHs ..).trans (Kept.commandEffect ..)).trans (Kept.yield ..)
      · exact (Kept.setHs ..).trans (Kept.commandEffect ..)
    · cases h
  case rdHsCmd => simp only [execRdHsCmd] at h; split at h; (· cases h; exact ((Kept.setHs ..).trans (Kept.clearOpt ..)).trans (Kept.emit ..)); cases h
  case wrHsRes => cases Outcome.eq_of_whenObject h; exact Kept.setHs ..
  case rdHsRes => cases Outcome.eq_of_whenObject h; exact (Kept.setHs ..).trans (Kept.emit ..)
  case rdHsStatus => simp only [execRdHsStatus] at h; split at h; (· cases h; exact Kept.emit ..); cases h
  case wrMcuData => simp only [execWrMcuData] at h; split at h; (· cases h; exact (Kept.setLink ..).trans (Kept.assertOpt ..)); cases h
  case rdMcuData => simp only [execRdMcuData] at h; split at h; (· cases h; exact ((Kept.setLink ..).trans (Kept.clearOpt ..)).trans (Kept.emit ..)); cases h
  case rdMcuStatus => simp only [execRdMcuStatus] at h; split at h; (· cases h; exact Kept.emit ..); cases h
  case wrMcuDdr => cases Outcome.eq_of_whenObject h; exact Kept.setLink ..
  case wrMcuPort =>
    simp only [execWrMcuPort] at h; split at h
    · cases h; split
      · exact Kept.setLink ..
      · exact (Kept.setLink ..).trans (Kept.runTriggers ..)
    · cases h
  case rdMcuPort u m p =>
    cases Outcome.eq_of_whenObject h; cases p
    · exact Kept.emit ..
    · exact (Kept.drawn ..).trans (Kept.emit ..)
  case wrSound => cases Outcome.eq_of_whenObject h; exact Kept.emit ..
  case rdSound => cases Outcome.eq_of_whenObject h; exact (Kept.drawn ..).trans (Kept.emit ..)
  case rdSoundBusy => simp only [execRdSoundBusy] at h; split at h; (· cases h; exact (Kept.drawn ..).trans (Kept.emit ..)); cases h
  case rdInput => cases h; exact (Kept.drawn ..).trans (Kept.emit ..)
  case wrVreg =>
    cases Outcome.eq_of_whenObject h; split
    · exact Kept.setVreg ..
    · exact Kept.setVreg ..
    · exact Kept.setVreg ..
    · exact Kept.vbank ..
    · exact Kept.ctrl ..
    · exact Kept.refl _
  case wrVregScrollxLo => cases Outcome.eq_of_whenObject h; exact Kept.setVreg ..
  case wrVregScrollxHi => cases Outcome.eq_of_whenObject h; exact Kept.setVreg ..
  case wrVregScrolly => cases Outcome.eq_of_whenObject h; exact Kept.setVreg ..
  case wrVregBank => cases Outcome.eq_of_whenObject h; exact Kept.vbank ..
  case wrVregCtrl => cases Outcome.eq_of_whenObject h; exact Kept.ctrl ..
  case wrPalette => cases Outcome.eq_of_whenByte h; exact Kept.storeByte ..
  case rdPalette => cases Outcome.eq_of_whenByte h; exact Kept.emit ..

/-- A transaction's operation means what exec means by it. -/
theorem performTxn_eq_exec (i : Instr) (s : State) (h : isTransaction i = true) : performTxn i s = exec i s := by
  cases i <;> first | rfl | (simp [isTransaction] at h)

/-- As `Kept`, but the position inside the slice and the script may move on. -/
structure SameTurn (s t : State) : Prop where
  good : State.Consistent s → State.Consistent t
  cfg : t.cfg = s.cfg
  phase : t.phase = s.phase
  error : t.error = s.error
  turn : t.turn = s.turn
  round : t.round = s.round
  slot : t.slot = s.slot
  frame : t.frame = s.frame
  fb : t.fb = s.fb
  out : t.out = s.out

theorem SameTurn.refl (s) : SameTurn s s := ⟨id, rfl, rfl, rfl, rfl, rfl, rfl, rfl, rfl, rfl⟩
theorem SameTurn.trans {s t u} (h : SameTurn s t) (g : SameTurn t u) : SameTurn s u := ⟨g.good ∘ h.good, g.cfg.trans h.cfg, g.phase.trans h.phase, g.error.trans h.error, g.turn.trans h.turn, g.round.trans h.round, g.slot.trans h.slot, g.frame.trans h.frame, g.fb.trans h.fb, g.out.trans h.out⟩
theorem Kept.sameTurn {s t} (h : Kept s t) : SameTurn s t := ⟨h.1, h.2.cfg, h.2.phase, h.2.error, h.2.turn, h.2.round, h.2.slot, h.2.frame, h.2.fb, h.2.out⟩
theorem SameTurn.moved (s : State) (p i) : SameTurn s { s with slicePos := p, input := i } := ⟨fun h => ⟨h.wf, h.bank, h.nmi⟩, rfl, rfl, rfl, rfl, rfl, rfl, rfl, rfl, rfl⟩

theorem State.present_sameTurn {s t : State} {c dir a d rest} (h : s.present c dir a d rest = .next t) : SameTurn s t := by
  unfold State.present at h
  split at h
  · split at h
    · cases h
    · split at h
      · cases h
      · split at h
        · exact (SameTurn.moved s _ _).trans (performTxn_kept _ _ _ h).sameTurn
        · cases h
  · cases h

theorem State.midSlice_sameTurn {s t : State} {w rest} (h : s.midSlice w rest = .next t) : SameTurn s t := by
  unfold State.midSlice at h
  split at h
  · exact State.present_sameTurn h
  · exact State.present_sameTurn h
  · split at h
    · cases Outcome.eq_of_whenObject h; exact (SameTurn.moved s _ _).trans (Kept.query ..).sameTurn
    · cases h
  · cases h

/-- What the loop of a slice can do (R311). -/
theorem sliceLoop_sameTurn : ∀ (ws : List ScriptLine) (s t : State), sliceLoop ws s = .next t → SameTurn s t := by
  intro ws
  induction ws with
  | nil => intro s t h; cases h; exact .refl _
  | cons w ws ih =>
    intro s t h
    rw [sliceLoop] at h
    split at h
    · cases h; exact SameTurn.moved s s.slicePos ws
    · split at h
      · rename_i u hu; exact (State.midSlice_sameTurn hu).trans (ih _ _ h)
      · cases h
      · cases h

theorem State.openSlice_sameTurn (s : State) : SameTurn s s.openSlice := by
  unfold State.openSlice; split
  · exact (SameTurn.moved s .ready _).trans (Kept.query ..).sameTurn
  · exact SameTurn.moved s .ready _

/-- What a whole slice does (R311): the turn passes on, after the last CPU with the round counted. -/
structure SliceEffect (s t : State) : Prop where
  good : State.Consistent s → State.Consistent t
  cfg : t.cfg = s.cfg
  phase : t.phase = s.phase
  error : t.error = s.error
  slot : t.slot = s.slot
  frame : t.frame = s.frame
  fb : t.fb = s.fb
  out : t.out = s.out
  pos : t.slicePos = .start
  yield : t.yieldReq = false
  adv : (s.turn + 1 < s.cfg.cpus.length ∧ t.turn = s.turn + 1 ∧ t.round = s.round) ∨ (s.cfg.cpus.length ≤ s.turn + 1 ∧ t.turn = 0 ∧ t.round = s.round + 1)

theorem State.endSlice_effect (s : State) : SliceEffect s s.endSlice := by
  unfold State.endSlice
  split
  · rename_i h; exact ⟨fun h => ⟨h.wf, h.bank, h.nmi⟩, rfl, rfl, rfl, rfl, rfl, rfl, rfl, rfl, rfl, .inr ⟨h, rfl, rfl⟩⟩
  · rename_i h; exact ⟨fun h => ⟨h.wf, h.bank, h.nmi⟩, rfl, rfl, rfl, rfl, rfl, rfl, rfl, rfl, rfl, .inl ⟨by omega, rfl, rfl⟩⟩

theorem State.runSlice_effect {s t : State} (h : s.runSlice = .next t) : SliceEffect s t := by
  unfold State.runSlice at h
  dsimp only at h
  have h0 : SameTurn s (if s.slicePos = .start then s.openSlice else s) := by
    split
    · exact State.openSlice_sameTurn s
    · exact .refl _
  generalize (if s.slicePos = .start then s.openSlice else s) = t0 at *
  split at h
  · rename_i u hu; cases h
    have m := h0.trans (sliceLoop_sameTurn _ _ _ hu)
    have e := State.endSlice_effect u
    refine ⟨e.good ∘ m.good, e.cfg.trans m.cfg, e.phase.trans m.phase, e.error.trans m.error, e.slot.trans m.slot, e.frame.trans m.frame, e.fb.trans m.fb, e.out.trans m.out, e.pos, e.yield, ?_⟩
    have := e.adv; rw [m.cfg, m.turn, m.round] at this; exact this
  · cases h
  · cases h

/-- What the slices of a frame do (R310). -/
structure RoundsEffect (s t : State) : Prop where
  good : State.Consistent s → State.Consistent t
  cfg : t.cfg = s.cfg
  phase : t.phase = s.phase
  error : t.error = s.error
  slot : t.slot = s.slot
  frame : t.frame = s.frame
  out : t.out = s.out
  turn : s.turn ≤ s.cfg.cpus.length - 1 → t.turn ≤ s.cfg.cpus.length - 1
  round : s.round ≤ s.cfg.slices → t.round ≤ s.cfg.slices

theorem sliceRounds_effect : ∀ (fuel : Nat) (s t : State), sliceRounds fuel s = .next t → RoundsEffect s t := by
  intro fuel
  induction fuel with
  | zero => intro s t h; cases h; exact ⟨id, rfl, rfl, rfl, rfl, rfl, rfl, id, id⟩
  | succ n ih =>
    intro s t h
    rw [sliceRounds] at h
    split at h
    · rename_i hr
      split at h
      · rename_i u hu
        have e := State.runSlice_effect hu
        have g := ih u t h
        refine ⟨g.good ∘ e.good, g.cfg.trans e.cfg, g.phase.trans e.phase, g.error.trans e.error, g.slot.trans e.slot, g.frame.trans e.frame, g.out.trans e.out, ?_, ?_⟩
        · intro h; have := g.turn; rw [e.cfg] at this; apply this; have := e.adv; omega
        · intro h; have := g.round; rw [e.cfg] at this; apply this; have := e.adv; omega
      · cases h
      · cases h
    · cases h; exact ⟨id, rfl, rfl, rfl, rfl, rfl, rfl, id, id⟩

/-! ### The fuel of a frame -/

/-- A bound on the slices that a frame still has. -/
def State.slicesLeft (s : State) : Nat :=
  (s.cfg.slices - s.round) * (s.cfg.cpus.length + 1) - min s.turn s.cfg.cpus.length

theorem State.one_le_slicesLeft {s : State} (h : s.round < s.cfg.slices) : 1 ≤ s.slicesLeft := by
  unfold State.slicesLeft
  have : 1 * (s.cfg.cpus.length + 1) ≤ (s.cfg.slices - s.round) * (s.cfg.cpus.length + 1) :=
    Nat.mul_le_mul_right _ (by omega)
  omega

theorem State.slicesLeft_le_frameFuel (s : State) : s.slicesLeft ≤ s.frameFuel := by
  unfold State.slicesLeft State.frameFuel
  have : (s.cfg.slices - s.round) * (s.cfg.cpus.length + 1) ≤ s.cfg.slices * (s.cfg.cpus.length + 1) :=
    Nat.mul_le_mul_right _ (by omega)
  omega

/-- A slice uses one of them up. -/
theorem SliceEffect.slicesLeft {s t : State} (e : SliceEffect s t) (h : s.round < s.cfg.slices) :
    t.slicesLeft + 1 ≤ s.slicesLeft := by
  unfold State.slicesLeft
  rw [e.cfg]
  have one : 1 * (s.cfg.cpus.length + 1) ≤ (s.cfg.slices - s.round) * (s.cfg.cpus.length + 1) :=
    Nat.mul_le_mul_right _ (by omega)
  rcases e.adv with ⟨_, ht, hr⟩ | ⟨_, ht, hr⟩
  · rw [ht, hr]; omega
  · rw [ht, hr]
    have : (s.cfg.slices - s.round) * (s.cfg.cpus.length + 1) =
        (s.cfg.slices - (s.round + 1)) * (s.cfg.cpus.length + 1) + (s.cfg.cpus.length + 1) := by
      rw [← Nat.succ_mul]; congr 1; omega
    omega

/-- Enough fuel is as good as any. -/
theorem sliceRounds_fuel (f g : Nat) (s : State) (hf : s.slicesLeft ≤ f) (hg : s.slicesLeft ≤ g) :
    sliceRounds f s = sliceRounds g s := by
  induction f generalizing g s with
  | zero =>
    have done : ¬s.round < s.cfg.slices := fun h => by have := State.one_le_slicesLeft h; omega
    cases g with
    | zero => rfl
    | succ g => rw [sliceRounds, sliceRounds, if_neg done]
  | succ f ih =>
    cases g with
    | zero =>
      have done : ¬s.round < s.cfg.slices := fun h => by have := State.one_le_slicesLeft h; omega
      rw [sliceRounds, sliceRounds, if_neg done]
    | succ g =>
      rw [sliceRounds, sliceRounds]
      split
      · rename_i hr
        cases hx : s.runSlice with
        | fault f => rfl
        | refused r => rfl
        | next t =>
          have := (State.runSlice_effect hx).slicesLeft hr
          exact ih g t (by omega) (by omega)
      · rfl

/-- With enough fuel every slice of the frame has ended. -/
theorem sliceRounds_done (f : Nat) (s t : State) (hf : s.slicesLeft ≤ f) (h : sliceRounds f s = .next t) :
    t.cfg.slices ≤ t.round := by
  induction f generalizing s with
  | zero => cases h; by_contra hn; have := State.one_le_slicesLeft (Nat.lt_of_not_le hn); omega
  | succ f ih =>
    rw [sliceRounds] at h
    split at h
    · rename_i hr
      cases hx : s.runSlice with
      | fault f => rw [hx] at h; cases h
      | refused r => rw [hx] at h; cases h
      | next u => rw [hx] at h; have := (State.runSlice_effect hx).slicesLeft hr; exact ih u (by omega) h
    · cases h; omega

end Sys2Proof.Machine
end

