-- ==== Sys2Proof/Laws/Decode.lean ====
section
/-! SUPPORT. Each reader of the decoder takes back what its writer put down, and takes nothing else. -/

namespace Sys2Proof

variable {α : Type}

theorem ofNat8_toNat (n : Nat) : (BitVec.ofNat 8 n).toNat = n % 2 ^ 8 := by simp

@[simp] theorem getByte_cons (d : Byte) (bs : List Byte) (k : Byte → List Byte → Option α) :
    getByte (d :: bs) k = k d bs := rfl

@[simp] theorem get8_enc8 {n : Nat} (h : fits8 n = true) (bs : List Byte) (k : Nat → List Byte → Option α) :
    get8 (enc8 n ++ bs) k = k n bs := by
  simp only [fits8, decide_eq_true_eq] at h
  simp only [enc8, List.cons_append, List.nil_append, get8, ofNat8_toNat]
  rw [Nat.mod_eq_of_lt h]

@[simp] theorem get16_enc16 {n : Nat} (h : fits16 n = true) (bs : List Byte) (k : Nat → List Byte → Option α) :
    get16 (enc16 n ++ bs) k = k n bs := by
  simp only [fits16, decide_eq_true_eq] at h
  simp only [enc16, List.cons_append, List.nil_append, get16, ofNat8_toNat]
  congr 1; omega

@[simp] theorem get32_enc32 {n : Nat} (h : fits32 n = true) (bs : List Byte) (k : Nat → List Byte → Option α) :
    get32 (enc32 n ++ bs) k = k n bs := by
  simp only [fits32, decide_eq_true_eq] at h
  simp only [enc32, List.cons_append, List.nil_append, get32, ofNat8_toNat]
  congr 1; omega

@[simp] theorem getInt32_encInt32 {x : Int} (h : fitsInt32 x = true) (bs : List Byte)
    (k : Int → List Byte → Option α) : getInt32 (encInt32 x ++ bs) k = k x bs := by
  simp only [fitsInt32, Bool.and_eq_true, decide_eq_true_eq] at h
  have hf : fits32 (x % 2 ^ 32).toNat = true := by simp only [fits32, decide_eq_true_eq]; omega
  simp only [getInt32, encInt32, get32_enc32 hf]
  congr 1; split <;> omega

@[simp] theorem getBool_encBool (b : Bool) (bs : List Byte) (k : Bool → List Byte → Option α) :
    getBool (encBool b ++ bs) k = k b bs := by cases b <;> rfl

@[simp] theorem getMode_encMode (m : AssertMode) (bs : List Byte) (k : AssertMode → List Byte → Option α) :
    getMode (encMode m ++ bs) k = k m bs := by cases m <;> rfl

@[simp] theorem getPort_encPort (p : Port) (bs : List Byte) (k : Port → List Byte → Option α) :
    getPort (encPort p ++ bs) k = k p bs := by cases p <;> rfl

@[simp] theorem getBit_enc8 {n : Nat} (h : fitsBit n = true) (bs : List Byte) (k : Nat → List Byte → Option α) :
    getBit (enc8 n ++ bs) k = k n bs := by
  simp only [fitsBit, decide_eq_true_eq] at h
  have : fits8 n = true := by simp only [fits8, decide_eq_true_eq]; omega
  rw [getBit, get8_enc8 this, if_pos h]

@[simp] theorem getSize_enc8 (n : Fin 4) (bs : List Byte) (k : Fin 4 → List Byte → Option α) :
    getSize (enc8 n.val ++ bs) k = k n bs := by
  have : fits8 n.val = true := by simp only [fits8, decide_eq_true_eq]; omega
  rw [getSize, get8_enc8 this, dif_pos n.isLt]

@[simp] theorem getSprite_encSprite {s : SpriteRec} (h : s.wellFormed = true) (bs : List Byte)
    (k : SpriteRec → List Byte → Option α) : getSprite (encSprite s ++ bs) k = k s bs := by
  simp only [SpriteRec.wellFormed, Bool.and_eq_true] at h
  obtain ⟨⟨⟨⟨h1, h2⟩, h3⟩, h4⟩, h5⟩ := h
  have h2 : fitsInt32 s.x = true := by simpa [fitsInt32] using h2
  simp only [getSprite, encSprite, List.append_assoc, get32_enc32 h1, getInt32_encInt32 h2, get32_enc32 h3,
    get32_enc32 h4, getBool_encBool, getSize_enc8, get32_enc32 h5]

@[simp] theorem IntType.ofCode_code (t : IntType) : IntType.ofCode t.code = t := by cases t <;> rfl

@[simp] theorem IntType.code_ofCode (n : Nat) : (IntType.ofCode n).code = n := by
  match n with
  | 0 | 1 | 2 | 3 | _ + 4 => rfl

/-! ### What a reader that succeeds has taken -/

theorem getByte_eq_some {bs : List Byte} {k : Byte → List Byte → Option α} {a : α} (h : getByte bs k = some a) :
    ∃ d rest, bs = d :: rest ∧ k d rest = some a := by
  cases bs with
  | nil => simp [getByte] at h
  | cons d rest => exact ⟨d, rest, rfl, h⟩

theorem get8_eq_some {bs : List Byte} {k : Nat → List Byte → Option α} {a : α} (h : get8 bs k = some a) :
    ∃ n rest, bs = enc8 n ++ rest ∧ fits8 n = true ∧ k n rest = some a := by
  cases bs with
  | nil => simp [get8] at h
  | cons d rest =>
    refine ⟨d.toNat, rest, ?_, ?_, h⟩
    · simp [enc8]
    · simpa [fits8] using d.isLt

theorem get16_eq_some {bs : List Byte} {k : Nat → List Byte → Option α} {a : α} (h : get16 bs k = some a) :
    ∃ n rest, bs = enc16 n ++ rest ∧ fits16 n = true ∧ k n rest = some a := by
  match bs, h with
  | d0 :: d1 :: rest, h =>
    have h0 := d0.isLt; have h1 := d1.isLt
    refine ⟨_, rest, ?_, ?_, h⟩
    · simp only [enc16, List.cons_append, List.nil_append, List.cons.injEq, and_true]
      constructor <;> (apply BitVec.eq_of_toNat_eq; rw [ofNat8_toNat]; omega)
    · simp only [fits16, decide_eq_true_eq]; omega

theorem get32_eq_some {bs : List Byte} {k : Nat → List Byte → Option α} {a : α} (h : get32 bs k = some a) :
    ∃ n rest, bs = enc32 n ++ rest ∧ fits32 n = true ∧ k n rest = some a := by
  match bs, h with
  | d0 :: d1 :: d2 :: d3 :: rest, h =>
    have h0 := d0.isLt; have h1 := d1.isLt; have h2 := d2.isLt; have h3 := d3.isLt
    refine ⟨_, rest, ?_, ?_, h⟩
    · simp only [enc32, List.cons_append, List.nil_append, List.cons.injEq, and_true]
      refine ⟨?_, ?_, ?_, ?_⟩ <;> (apply BitVec.eq_of_toNat_eq; rw [ofNat8_toNat]; omega)
    · simp only [fits32, decide_eq_true_eq]; omega

end Sys2Proof
end

