-- ==== Sys2Proof/Laws/Frame.lean ====
section
/-! SUPPORT. What each shared operation leaves alone, in the parts of Safety.lean: one lemma per operation, and the two
that join them. An operation of a transaction is a chain of these. -/

namespace Sys2Proof.Machine

theorem Unchanged.refl {s : State} {ps : List Part} : Unchanged s s ps := fun p _ => by cases p <;> simp [Part.same]

theorem Part.same.trans {s t u : State} {p : Part} (h : Part.same s t p) (g : Part.same t u p) : Part.same s u p := by
  cases p <;> simp_all [Part.same]

theorem Unchanged.trans {s t u : State} {ps qs : List Part} (h : Unchanged s t ps) (g : Unchanged t u qs) :
    Unchanged s u (ps ++ qs) := fun p hp => by
  rw [List.mem_append, not_or] at hp
  exact (h p hp.1).trans (g p hp.2)

theorem Unchanged.mono {s t : State} {ps qs : List Part} (h : Unchanged s t ps) (sub : ∀ p ∈ ps, p ∈ qs) :
    Unchanged s t qs := fun p hp => h p fun m => hp (sub p m)

/-! ### The registers -/

theorem State.unchanged_setBank {s : State} {k v : Nat} : Unchanged s (s.setBank k v) [.bank] := fun p hp => by
  cases p <;> simp_all [Part.same]
theorem State.unchanged_setIrqEn {s : State} {c line : Nat} {v : Bool} : Unchanged s (s.setIrqEn c line v) [.irqEn] :=
  fun p hp => by cases p <;> simp_all [Part.same]
theorem State.unchanged_setAsserted {s : State} {c : Nat} {t : IntType} {v : Assert} :
    Unchanged s (s.setAsserted c t v) [.asserted] := fun p hp => by cases p <;> simp_all [Part.same]
theorem State.unchanged_setNmiEn {s : State} {c : Nat} {v : Bool} : Unchanged s (s.setNmiEn c v) [.nmiEn] :=
  fun p hp => by cases p <;> simp_all [Part.same]
theorem State.unchanged_setNmiPending {s : State} {c : Nat} {v : Bool} :
    Unchanged s (s.setNmiPending c v) [.nmiPending] := fun p hp => by cases p <;> simp_all [Part.same]
theorem State.unchanged_setHs {s : State} {h : Nat} {v : HsRegs} : Unchanged s (s.setHs h v) [.hs] := fun p hp => by
  cases p <;> simp_all [Part.same]
theorem State.unchanged_setLink {s : State} {m : Nat} {v : LinkRegs} : Unchanged s (s.setLink m v) [.link] :=
  fun p hp => by cases p <;> simp_all [Part.same]
theorem State.unchanged_setVreg {s : State} {l : Nat} {v : VregRegs} : Unchanged s (s.setVreg l v) [.vreg] :=
  fun p hp => by cases p <;> simp_all [Part.same]
theorem State.unchanged_setDirty {s : State} {l : Nat} {v : Bool} : Unchanged s (s.setDirty l v) [.dirty] :=
  fun p hp => by cases p <;> simp_all [Part.same]
theorem State.unchanged_emit {s : State} {o : Obs} : Unchanged s (s.emit o) [.trace] := fun p hp => by
  cases p <;> simp_all [Part.same]
theorem State.unchanged_drawn {s : State} : Unchanged s s.drawn [.draws] := fun p hp => by
  cases p <;> simp_all [Part.same]
theorem State.unchanged_yield {s : State} {w : Nat} : Unchanged s (s.yield w) [.yieldReq] := fun p hp => by
  cases p <;> first | exact absurd (List.mem_singleton.2 rfl) hp | rfl | exact fun _ => rfl | exact fun _ _ => rfl
theorem State.unchanged_memWrite {s : State} {b off : Nat} {v : Byte} : Unchanged s (s.memWrite b off v) [.mem] := by
  obtain ⟨m, h⟩ := s.memWrite_shape b off v
  rw [h]; intro p hp
  cases p <;> first | exact absurd (List.mem_singleton.2 rfl) hp | rfl | exact fun _ => rfl | exact fun _ _ => rfl
theorem State.unchanged_setDirtyAll {s : State} {ls : List Nat} {v : Bool} :
    Unchanged s (s.setDirtyAll ls v) [.dirty] := by
  obtain ⟨d, h⟩ := s.setDirtyAll_shape ls v
  rw [h]; intro p hp
  cases p <;> first | exact absurd (List.mem_singleton.2 rfl) hp | rfl | exact fun _ => rfl | exact fun _ _ => rfl

/-! ### The operations made of them -/

theorem State.unchanged_markDirty {s : State} {b : Nat} : Unchanged s (s.markDirty b) [.dirty] :=
  unchanged_setDirtyAll
theorem State.unchanged_storeByte {s : State} {b off : Nat} {v : Byte} :
    Unchanged s (s.storeByte b off v) [.mem, .dirty] := by
  exact State.unchanged_memWrite.trans unchanged_markDirty
theorem State.unchanged_assertLine {s : State} {c : Nat} {t : IntType} {m : AssertMode} :
    Unchanged s (s.assertLine c t m) [.asserted] := unchanged_setAsserted
theorem State.unchanged_clearLine {s : State} {c : Nat} {t : IntType} : Unchanged s (s.clearLine c t) [.asserted] :=
  unchanged_setAsserted
theorem State.unchanged_triggerNmi {s : State} {c : Nat} : Unchanged s (s.triggerNmi c) [.asserted, .nmiPending] := by
  unfold State.triggerNmi; split
  · exact State.unchanged_assertLine.mono (by simp)
  · exact State.unchanged_setNmiPending.mono (by simp)
theorem State.unchanged_assertOpt {s : State} {a : Option LineAssert} : Unchanged s (s.assertOpt a) [.asserted] := by
  cases a
  · exact .refl
  · exact unchanged_assertLine
theorem State.unchanged_clearOpt {s : State} {r : Option LineRef} : Unchanged s (s.clearOpt r) [.asserted] := by
  cases r
  · exact .refl
  · exact unchanged_clearLine
theorem State.unchanged_query {s : State} {c : Nat} {early : Bool} :
    Unchanged s (s.query c early) [.asserted, .trace] := by
  unfold State.query; split
  · exact State.unchanged_emit.mono (by simp)
  · split
    · exact State.unchanged_setAsserted.trans unchanged_emit
    · exact State.unchanged_emit.mono (by simp)
theorem State.unchanged_commandEffect {s : State} {e : CmdEffect} :
    Unchanged s (s.commandEffect e) [.asserted, .nmiPending] := by
  cases e
  · exact .refl
  · exact State.unchanged_assertLine.mono (by simp)
  · exact State.unchanged_triggerNmi
theorem State.unchanged_writeVbank {s : State} {l : Nat} {d : Byte} : Unchanged s (s.writeVbank l d) [.vreg, .dirty] :=
  State.unchanged_setVreg.trans unchanged_setDirty
theorem State.unchanged_writeVctrl {s : State} {l : Nat} {d : Byte} : Unchanged s (s.writeVctrl l d) [.vreg, .irqEn] := by
  unfold State.writeVctrl; dsimp only; split
  · exact State.unchanged_setVreg.trans unchanged_setIrqEn
  · exact State.unchanged_setVreg.mono (by simp)
theorem State.unchanged_latchFromMain {s : State} {m : Nat} : Unchanged s (s.latchFromMain m) [.link, .asserted] :=
  State.unchanged_setLink.trans unchanged_clearOpt
theorem State.unchanged_sendToMain {s : State} {m : Nat} : Unchanged s (s.sendToMain m) [.link, .asserted] :=
  State.unchanged_setLink.trans unchanged_assertOpt
theorem State.unchanged_portAction {s : State} {m : Nat} {a : PortAction} :
    Unchanged s (s.portAction m a) [.link, .asserted] := by
  cases a
  · exact State.unchanged_latchFromMain
  · exact State.unchanged_sendToMain
theorem State.unchanged_runTriggers {m : Nat} {ts : List Trigger} {old new : Byte} :
    ∀ {s : State}, Unchanged s (s.runTriggers m ts old new) [.link, .asserted] := by
  induction ts with
  | nil => exact .refl
  | cons t ts ih =>
    intro s
    have first : Unchanged s (if t.fires old new then s.portAction m t.action else s) [.link, .asserted] := by
      split
      · exact State.unchanged_portAction
      · exact .refl
    exact (first.trans ih).mono (by simp)

/-! ### The operations of a transaction -/

/-- The parts that an operation of a transaction may change (R42). -/
def txnParts : Instr → List Part
  | .wrRam .. => [.mem, .dirty]
  | .wrBank .. => [.mem, .dirty]
  | .wrShared .. => [.mem, .dirty]
  | .wrPalette .. => [.mem, .dirty]
  | .wrBanksel .. => [.bank]
  | .wrIrqen .. => [.irqEn]
  | .wrNmien .. => [.nmiEn, .nmiPending, .asserted]
  | .wrIrqclr .. => [.asserted]
  | .wrHsCmd .. => [.hs, .asserted, .nmiPending, .yieldReq]
  | .rdHsCmd .. => [.hs, .asserted, .trace]
  | .wrHsRes .. => [.hs]
  | .rdHsRes .. => [.hs, .trace]
  | .wrMcuData .. => [.link, .asserted]
  | .rdMcuData .. => [.link, .asserted, .trace]
  | .wrMcuDdr .. => [.link]
  | .wrMcuPort .. => [.link, .asserted]
  | .wrVreg .. => [.vreg, .dirty, .irqEn]
  | .wrVregScrollxLo .. => [.vreg]
  | .wrVregScrollxHi .. => [.vreg]
  | .wrVregScrolly .. => [.vreg]
  | .wrVregBank .. => [.vreg, .dirty]
  | .wrVregCtrl .. => [.vreg, .irqEn]
  | _ => [.draws, .trace]

/-- A transaction changes the parts of its operation and no other. -/
theorem performTxn_unchanged {i : Instr} {s t : State} (h : performTxn i s = .next t) : Unchanged s t (txnParts i) := by
  cases i <;> simp only [performTxn] at h <;> try (cases h; done)
  case rdOpen =>
    simp only [execRdOpen] at h; split at h <;> cases h
    exact State.unchanged_emit.mono (by simp [txnParts])
  case wrOpen => cases h; exact .refl
  case rdRam => cases Outcome.whenByte_eq_next.1 h |>.2; exact State.unchanged_emit.mono (by simp [txnParts])
  case wrRam => cases Outcome.whenByte_eq_next.1 h |>.2; exact State.unchanged_storeByte
  case rdRom => cases Outcome.whenByte_eq_next.1 h |>.2; exact State.unchanged_emit.mono (by simp [txnParts])
  case rdBank =>
    simp only [execRdBank] at h; split at h
    · cases Outcome.whenByte_eq_next.1 h |>.2; exact State.unchanged_emit.mono (by simp [txnParts])
    · cases h
  case wrBank =>
    simp only [execWrBank] at h; split at h
    · cases Outcome.whenByte_eq_next.1 h |>.2; exact State.unchanged_storeByte
    · cases h
  case wrBanksel => simp only [execWrBanksel] at h; split at h <;> cases h; exact State.unchanged_setBank
  case rdShared =>
    simp only [execRdShared] at h; split at h
    · cases Outcome.whenByte_eq_next.1 h |>.2; exact State.unchanged_emit.mono (by simp [txnParts])
    · cases h
  case wrShared =>
    simp only [execWrShared] at h; split at h
    · cases Outcome.whenByte_eq_next.1 h |>.2; exact State.unchanged_storeByte
    · cases h
  case wrIrqen => cases Outcome.whenObject_eq_next.1 h |>.2; exact State.unchanged_setIrqEn
  case wrNmien w c d =>
    simp only [execWrNmien] at h; split at h <;> cases h
    split
    · exact (State.unchanged_setNmiEn.trans State.unchanged_setNmiPending).trans State.unchanged_assertLine
    · exact State.unchanged_setNmiEn.mono (by simp [txnParts])
  case wrIrqclr => cases Outcome.whenObject_eq_next.1 h |>.2; exact State.unchanged_clearLine
  case wrHsCmd w k d =>
    simp only [execWrHsCmd] at h; split at h <;> cases h
    split
    · exact (State.unchanged_setHs.trans State.unchanged_commandEffect).trans State.unchanged_yield
    · exact (State.unchanged_setHs.trans State.unchanged_commandEffect).mono (by simp [txnParts])
  case rdHsCmd =>
    simp only [execRdHsCmd] at h; split at h <;> cases h
    exact (State.unchanged_setHs.trans State.unchanged_clearOpt).trans State.unchanged_emit
  case wrHsRes => cases Outcome.whenObject_eq_next.1 h |>.2; exact State.unchanged_setHs
  case rdHsRes => cases Outcome.whenObject_eq_next.1 h |>.2; exact State.unchanged_setHs.trans State.unchanged_emit
  case rdHsStatus =>
    simp only [execRdHsStatus] at h; split at h <;> cases h
    exact State.unchanged_emit.mono (by simp [txnParts])
  case wrMcuData =>
    simp only [execWrMcuData] at h; split at h <;> cases h
    exact State.unchanged_setLink.trans State.unchanged_assertOpt
  case rdMcuData =>
    simp only [execRdMcuData] at h; split at h <;> cases h
    exact (State.unchanged_setLink.trans State.unchanged_clearOpt).trans State.unchanged_emit
  case rdMcuStatus =>
    simp only [execRdMcuStatus] at h; split at h <;> cases h
    exact State.unchanged_emit.mono (by simp [txnParts])
  case wrMcuDdr => cases Outcome.whenObject_eq_next.1 h |>.2; exact State.unchanged_setLink
  case wrMcuPort =>
    simp only [execWrMcuPort] at h; split at h <;> cases h
    split
    · exact State.unchanged_setLink.mono (by simp [txnParts])
    · exact (State.unchanged_setLink.trans State.unchanged_runTriggers).mono (by simp [txnParts])
  case rdMcuPort =>
    cases Outcome.whenObject_eq_next.1 h |>.2
    split
    · exact State.unchanged_emit.mono (by simp [txnParts])
    · exact State.unchanged_drawn.trans State.unchanged_emit
  case wrSound => cases Outcome.whenObject_eq_next.1 h |>.2; exact State.unchanged_emit.mono (by simp [txnParts])
  case rdSound => cases Outcome.whenObject_eq_next.1 h |>.2; exact State.unchanged_drawn.trans State.unchanged_emit
  case rdSoundBusy =>
    simp only [execRdSoundBusy] at h; split at h <;> cases h
    exact State.unchanged_drawn.trans State.unchanged_emit
  case rdInput => cases h; exact State.unchanged_drawn.trans State.unchanged_emit
  case wrVreg =>
    cases Outcome.whenObject_eq_next.1 h |>.2
    split
    · exact State.unchanged_setVreg.mono (by simp [txnParts])
    · exact State.unchanged_setVreg.mono (by simp [txnParts])
    · exact State.unchanged_setVreg.mono (by simp [txnParts])
    · exact State.unchanged_writeVbank.mono (by simp [txnParts])
    · exact State.unchanged_writeVctrl.mono (by simp [txnParts])
    · exact .refl
  case wrVregScrollxLo => cases Outcome.whenObject_eq_next.1 h |>.2; exact State.unchanged_setVreg
  case wrVregScrollxHi => cases Outcome.whenObject_eq_next.1 h |>.2; exact State.unchanged_setVreg
  case wrVregScrolly => cases Outcome.whenObject_eq_next.1 h |>.2; exact State.unchanged_setVreg
  case wrVregBank => cases Outcome.whenObject_eq_next.1 h |>.2; exact State.unchanged_writeVbank
  case wrVregCtrl => cases Outcome.whenObject_eq_next.1 h |>.2; exact State.unchanged_writeVctrl
  case wrPalette => cases Outcome.whenByte_eq_next.1 h |>.2; exact State.unchanged_storeByte
  case rdPalette => cases Outcome.whenByte_eq_next.1 h |>.2; exact State.unchanged_emit.mono (by simp [txnParts])

end Sys2Proof.Machine
end

