-- ==== Sys2Proof/Laws/PerInstr.lean ====
section
/-! SUPPORT. One lemma per operation: its operation word is its key and at most 24 operand bytes, so the 32 zero bytes
that `tableBytes` appends complete any word whose operands are 0 (Decode.lean). -/

namespace Sys2Proof.Laws.WordLength

/-- The word begins with the key and is at most 25 bytes long. -/
def Statement (i : Instr) : Prop := (encode i).head? = some i.key ∧ (encode i).length ≤ 25

theorem rdOpen (c a : Nat) : Statement (.rdOpen c a) := ⟨rfl, Nat.le_of_ble_eq_true rfl⟩
theorem wrOpen (c a : Nat) (d : Byte) : Statement (.wrOpen c a d) := ⟨rfl, Nat.le_of_ble_eq_true rfl⟩
theorem rdRam (c b o off : Nat) : Statement (.rdRam c b o off) := ⟨rfl, Nat.le_of_ble_eq_true rfl⟩
theorem wrRam (c b o off : Nat) (d : Byte) : Statement (.wrRam c b o off d) := ⟨rfl, Nat.le_of_ble_eq_true rfl⟩
theorem rdRom (c b o off : Nat) : Statement (.rdRom c b o off) := ⟨rfl, Nat.le_of_ble_eq_true rfl⟩
theorem rdBank (c k off : Nat) : Statement (.rdBank c k off) := ⟨rfl, Nat.le_of_ble_eq_true rfl⟩
theorem wrBank (c k off : Nat) (d : Byte) : Statement (.wrBank c k off d) := ⟨rfl, Nat.le_of_ble_eq_true rfl⟩
theorem wrBanksel (c k : Nat) (d : Byte) : Statement (.wrBanksel c k d) := ⟨rfl, Nat.le_of_ble_eq_true rfl⟩
theorem rdShared (c r off : Nat) : Statement (.rdShared c r off) := ⟨rfl, Nat.le_of_ble_eq_true rfl⟩
theorem wrShared (c r off : Nat) (d : Byte) : Statement (.wrShared c r off d) := ⟨rfl, Nat.le_of_ble_eq_true rfl⟩
theorem wrIrqen (w c line bit : Nat) (d : Byte) : Statement (.wrIrqen w c line bit d) := ⟨rfl, Nat.le_of_ble_eq_true rfl⟩
theorem wrNmien (w c : Nat) (d : Byte) : Statement (.wrNmien w c d) := ⟨rfl, Nat.le_of_ble_eq_true rfl⟩
theorem wrIrqclr (w c : Nat) (t : IntType) (d : Byte) : Statement (.wrIrqclr w c t d) := ⟨rfl, Nat.le_of_ble_eq_true rfl⟩
theorem wrHsCmd (w h : Nat) (d : Byte) : Statement (.wrHsCmd w h d) := ⟨rfl, Nat.le_of_ble_eq_true rfl⟩
theorem rdHsCmd (c h : Nat) : Statement (.rdHsCmd c h) := ⟨rfl, Nat.le_of_ble_eq_true rfl⟩
theorem wrHsRes (c h : Nat) (d : Byte) : Statement (.wrHsRes c h d) := ⟨rfl, Nat.le_of_ble_eq_true rfl⟩
theorem rdHsRes (w h : Nat) : Statement (.rdHsRes w h) := ⟨rfl, Nat.le_of_ble_eq_true rfl⟩
theorem rdHsStatus (c h : Nat) : Statement (.rdHsStatus c h) := ⟨rfl, Nat.le_of_ble_eq_true rfl⟩
theorem wrMcuData (w m : Nat) (d : Byte) : Statement (.wrMcuData w m d) := ⟨rfl, Nat.le_of_ble_eq_true rfl⟩
theorem rdMcuData (w m : Nat) : Statement (.rdMcuData w m) := ⟨rfl, Nat.le_of_ble_eq_true rfl⟩
theorem rdMcuStatus (w m : Nat) : Statement (.rdMcuStatus w m) := ⟨rfl, Nat.le_of_ble_eq_true rfl⟩
theorem wrMcuDdr (u m : Nat) (p : Port) (d : Byte) : Statement (.wrMcuDdr u m p d) := by cases p <;> exact ⟨rfl, Nat.le_of_ble_eq_true rfl⟩
theorem wrMcuPort (u m : Nat) (p : Port) (d : Byte) : Statement (.wrMcuPort u m p d) := by cases p <;> exact ⟨rfl, Nat.le_of_ble_eq_true rfl⟩
theorem rdMcuPort (u m : Nat) (p : Port) : Statement (.rdMcuPort u m p) := by cases p <;> exact ⟨rfl, Nat.le_of_ble_eq_true rfl⟩
theorem wrSound (c dev off : Nat) (d : Byte) : Statement (.wrSound c dev off d) := ⟨rfl, Nat.le_of_ble_eq_true rfl⟩
theorem rdSound (c dev off : Nat) : Statement (.rdSound c dev off) := ⟨rfl, Nat.le_of_ble_eq_true rfl⟩
theorem rdSoundBusy (c dev : Nat) : Statement (.rdSoundBusy c dev) := ⟨rfl, Nat.le_of_ble_eq_true rfl⟩
theorem rdInput (c i0 off : Nat) : Statement (.rdInput c i0 off) := ⟨rfl, Nat.le_of_ble_eq_true rfl⟩
theorem wrVreg (w l off : Nat) (d : Byte) : Statement (.wrVreg w l off d) := ⟨rfl, Nat.le_of_ble_eq_true rfl⟩
theorem wrVregScrollxLo (w l : Nat) (d : Byte) : Statement (.wrVregScrollxLo w l d) := ⟨rfl, Nat.le_of_ble_eq_true rfl⟩
theorem wrVregScrollxHi (w l : Nat) (d : Byte) : Statement (.wrVregScrollxHi w l d) := ⟨rfl, Nat.le_of_ble_eq_true rfl⟩
theorem wrVregScrolly (w l : Nat) (d : Byte) : Statement (.wrVregScrolly w l d) := ⟨rfl, Nat.le_of_ble_eq_true rfl⟩
theorem wrVregBank (w l : Nat) (d : Byte) : Statement (.wrVregBank w l d) := ⟨rfl, Nat.le_of_ble_eq_true rfl⟩
theorem wrVregCtrl (w l : Nat) (d : Byte) : Statement (.wrVregCtrl w l d) := ⟨rfl, Nat.le_of_ble_eq_true rfl⟩
theorem wrPalette (w b o off : Nat) (d : Byte) : Statement (.wrPalette w b o off d) := ⟨rfl, Nat.le_of_ble_eq_true rfl⟩
theorem rdPalette (w b o off : Nat) : Statement (.rdPalette w b o off) := ⟨rfl, Nat.le_of_ble_eq_true rfl⟩
theorem intQuery (c : Nat) (early : Bool) : Statement (.intQuery c early) := by cases early <;> exact ⟨rfl, Nat.le_of_ble_eq_true rfl⟩
theorem intAssert (c : Nat) (t : IntType) (mode : AssertMode) : Statement (.intAssert c t mode) := by cases mode <;> exact ⟨rfl, Nat.le_of_ble_eq_true rfl⟩
theorem intClear (c : Nat) (t : IntType) : Statement (.intClear c t) := ⟨rfl, Nat.le_of_ble_eq_true rfl⟩
theorem nmiTrigger (c : Nat) : Statement (.nmiTrigger c) := ⟨rfl, Nat.le_of_ble_eq_true rfl⟩
theorem actLatchFromMain (m : Nat) : Statement (.actLatchFromMain m) := ⟨rfl, Nat.le_of_ble_eq_true rfl⟩
theorem actSendToMain (m : Nat) : Statement (.actSendToMain m) := ⟨rfl, Nat.le_of_ble_eq_true rfl⟩
theorem hsYield (w : Nat) : Statement (.hsYield w) := ⟨rfl, Nat.le_of_ble_eq_true rfl⟩
theorem schedSlice : Statement .schedSlice := ⟨rfl, Nat.le_of_ble_eq_true rfl⟩
theorem schedFrame : Statement .schedFrame := ⟨rfl, Nat.le_of_ble_eq_true rfl⟩
theorem compose : Statement .compose := ⟨rfl, Nat.le_of_ble_eq_true rfl⟩
theorem tileResolve (l cell : Nat) : Statement (.tileResolve l cell) := ⟨rfl, Nat.le_of_ble_eq_true rfl⟩
theorem layerDraw (l : Nat) (fs : Bool) : Statement (.layerDraw l fs) := by cases fs <;> exact ⟨rfl, Nat.le_of_ble_eq_true rfl⟩
theorem spriteDecode (i : Nat) : Statement (.spriteDecode i) := ⟨rfl, Nat.le_of_ble_eq_true rfl⟩
theorem spriteDraw (s : SpriteRec) (fs : Bool) : Statement (.spriteDraw s fs) := by
  obtain ⟨_, _, _, _, flipX, flipY, _, _⟩ := s
  cases flipX <;> cases flipY <;> cases fs <;> exact ⟨rfl, Nat.le_of_ble_eq_true rfl⟩
theorem paletteResolve : Statement .paletteResolve := ⟨rfl, Nat.le_of_ble_eq_true rfl⟩
theorem reset : Statement .reset := ⟨rfl, Nat.le_of_ble_eq_true rfl⟩
theorem configCheck : Statement .configCheck := ⟨rfl, Nat.le_of_ble_eq_true rfl⟩

end Sys2Proof.Laws.WordLength
end

