-- ==== Sys2Proof/Machine/Script.lean ====
section
/-! DEFINITION. The pseudo-instructions of the script syntax (30_encoding.md R103), each expanded to the lines that the
rule shows. No step reads them; `W16` is the one use of `BYTE_LANE_ORDER` (R64).

DESIGN CHOICE (log entry 21), where R103 says nothing: an expansion is written as it is shown, whatever the CPU and the
address. A line of a CPU the board does not have, or at an address outside its space (a + 1 at the top of it), is refused
when it is presented (R62, R311); one that does not fit R102's fields has no word (`encodeWord`). -/

namespace Sys2Proof

/-- `W16 cpuN a v` (R103): the high byte at a, the low byte at a + 1; the two lines swap under `LOW_FIRST`. DESIGN CHOICE
(log entry 21): a CPU that the board does not have has no `BYTE_LANE_ORDER`, and the line expands to nothing. -/
def Script.w16 (cfg : Config) (c a : Nat) (v : BitVec 16) : List BusEvent :=
  let hi := .write c a (v.extractLsb' 8 8)
  let lo := .write c (a + 1) (v.extractLsb' 0 8)
  match cfg.cpus[c]?.map CpuCfg.laneOrder with
  | some .highFirst => [hi, lo]
  | some .lowFirst => [lo, hi]
  | none => []

/-- `FILL cpuN a n v` (R103): n writes of v from address a upwards, past the end of the space too (log entry 21). -/
def Script.fill (c a n : Nat) (v : Byte) : List BusEvent := (tabulate (fun i => i) a n).map fun x => .write c x v

/-- `SETBANK cpuN k v` (R103): a write of v to the `BANKSEL` entry for bank k in `WRITE_MAP[N]`. DESIGN CHOICE (log entry
21), where the rule's "the address of the entry" names no one address: an entry of several addresses is written at its
`start`, of several entries the first is written, and where there is none the line expands to nothing. -/
def Script.setBank (cfg : Config) (c k : Nat) (v : Byte) : List BusEvent :=
  match (cfg.map c .write).find? (fun e => e.cap == .banksel k) with
  | some e => [.write c e.start v]
  | none => []

end Sys2Proof
end

