-- ==== Sys2Proof/Tests/Slice0.lean ====
section
/-! SUPPORT. Tests: the ill-formed terms the checks refuse, the decoding of words written out from the spec's encodings,
one-step vectors of spec 95_test_vectors.md (V…, S…, P… name them), and a witness for the hypotheses of each statement. -/

namespace Sys2Proof.Tests

set_option Elab.async false

open Sys2Proof Sys2Proof.Machine

/-! ### Helpers -/

/-- The start-state premise of the vectors (95_test_vectors.md): after a passing CONFIG.CHECK, in cpu0's slice. -/
def premise : State := { State.reset with phase := .running, slicePos := .ready }

/-- The premise under a changed configuration. -/
def premiseOf (cfg : Config) : State := { premise with cfg := cfg }

/-- One step that runs a line of the CPU that holds the slice. -/
def line (s : State) (c : Nat) (e : ScriptLine) : Host.Outcome State Fault Refusal := step { s with turn := c, input := [e] }

/-- One step that runs a transaction word of the CPU that holds the slice. -/
def bus (s : State) (c : Nat) (w : TxnWord) : Host.Outcome State Fault Refusal := line s c (decodeWord w)

/-- What the state after a step shows, none where there is no next state. -/
def see {α : Type} (o : Host.Outcome State Fault Refusal) (f : State → α) : Option α :=
  match o with
  | .next t => some (f t)
  | .fault _ => none
  | .refused _ => none

/-- The refusal of a step, none where it is not refused. -/
def refusal (o : Host.Outcome State Fault Refusal) : Option Refusal :=
  match o with
  | .next _ => none
  | .fault _ => none
  | .refused r => some r

/-- The newest event. -/
def event (t : State) : Option Obs := t.trace.head?

/-- The value that a read transaction returned. -/
def got (o : Host.Outcome State Fault Refusal) : Option Byte :=
  match o with
  | .next t => match t.trace with
    | .read _ v :: _ => some v
    | _ => none
  | .fault _ => none
  | .refused _ => none

/-- A state with bytes stored: (buffer, offset, byte). -/
def poke (s : State) (l : List (Nat × Nat × Byte)) : State := l.foldl (fun s p => s.memWrite p.1 p.2.1 p.2.2) s

/-- The operation that a transaction word selects under a configuration. -/
def txnOf (cfg : Config) (w : TxnWord) : Option Instr :=
  match decodeWord w with
  | some (.read c a) => txnInstr cfg c .read a 0
  | some (.write c a d) => txnInstr cfg c .write a d
  | _ => none

/-- TC1 with one thing changed: bank k0 over a RAM region, with a write window (V9). -/
def tc1Ram : Config :=
  { Tc1.config with
    buffers := Tc1.config.buffers.set 1 ⟨.ram, 0x20000, .const 0⟩
    cpus := Tc1.config.cpus.modify 0 fun c => { c with writeMap := c.writeMap ++ [⟨0x6000, 0x7FFF, .banked 0⟩] } }

/-- TC1 with a changed handshake (TC1-S, TC1-INV). -/
def tc1Hs (f : HandshakeCfg → HandshakeCfg) : Config := { Tc1.config with handshakes := Tc1.config.handshakes.map f }

/-! ### WellFormed: an ill-formed term for each check -/

/-- Each operand range refuses the first number past it. -/
theorem test_wellFormed_ranges :
    (Instr.rdOpen 256 0).wellFormed = false ∧ (Instr.rdOpen 0 0x100000000).wellFormed = false ∧
    (Instr.rdRam 0 0x10000 0 0).wellFormed = false ∧ (Instr.rdRam 0 0 0x100000000 0).wellFormed = false ∧
    (Instr.wrIrqen 0 0 0 8 0).wellFormed = false ∧ (Instr.intClear 0 (.other 0xFFFC)).wellFormed = false ∧
    (Instr.spriteDraw ⟨0x100000000, 0, 0, 0, false, false, 0, 0⟩ false).wellFormed = false ∧
    (Instr.spriteDraw ⟨0, 0x80000000, 0, 0, false, false, 0, 0⟩ false).wellFormed = false ∧
    (Instr.spriteDraw ⟨0, -0x80000001, 0, 0, false, false, 0, 0⟩ false).wellFormed = false ∧
    (BusEvent.read 16 0).wellFormed = false ∧ (BusEvent.write 0 0x100000000 0).wellFormed = false := by decide

/-- The last number of each range is accepted. -/
theorem test_wellFormed_accepts :
    (Instr.wrIrqen 255 255 0xFFFF 7 0).wellFormed = true ∧ (Instr.rdRam 255 0xFFFF 0xFFFFFFFF 0xFFFFFFFF).wellFormed = true ∧
    (Instr.spriteDraw ⟨0xFFFFFFFF, -0x80000000, 0, 0, true, true, 3, 0⟩ true).wellFormed = true ∧
    (BusEvent.read 15 0xFFFFFFFF).wellFormed = true := by decide

/-! ### Decoding: transaction words written out from R102, through the maps of TC1 (95_test_vectors.md §1.2) -/

theorem test_decode_bus_memory :
    txnOf Tc1.config 0x000000440000 = some (.rdOpen 0 0x4400) ∧
    txnOf Tc1.config 0x100000440077 = some (.wrOpen 0 0x4400 0x77) ∧
    txnOf Tc1.config 0x00000007FF00 = some (.rdRam 0 3 0 0x7FF) ∧
    txnOf Tc1.config 0x10000018005A = some (.wrRam 0 4 0 0x800 0x5A) ∧
    txnOf Tc1.config 0x000000F00100 = some (.rdRom 0 0 0 0x7001) ∧
    txnOf Tc1.config 0x000000612300 = some (.rdBank 0 0 0x123) ∧
    txnOf tc1Ram 0x100000600577 = some (.wrBank 0 0 5 0x77) ∧
    txnOf Tc1.config 0x100000403013 = some (.wrBanksel 0 0 0x13) ∧
    txnOf Tc1.config 0x010000801000 = some (.rdShared 1 0 0x10) ∧
    txnOf Tc1.config 0x100000201042 = some (.wrShared 0 0 0x10 0x42) := by decide

theorem test_decode_bus_forwarding :
    txnOf Tc1.config 0x110000C0013F = some (.wrSound 1 0 1 0x3F) ∧
    txnOf Tc1.config 0x010000C00000 = some (.rdSound 1 0 0) ∧
    txnOf Tc1.config 0x010000C00200 = some (.rdSoundBusy 1 0) ∧
    txnOf Tc1.config 0x000000402100 = some (.rdInput 0 0 1) := by decide

theorem test_decode_bus_interrupts :
    txnOf Tc1.config 0x100000405002 = some (.wrIrqen 0 0 1 1 0x02) ∧
    txnOf Tc1.config 0x110000E00001 = some (.wrNmien 1 1 0x01) ∧
    txnOf Tc1.config 0x100000405100 = some (.wrIrqclr 0 0 .irq 0x00) := by decide

theorem test_decode_bus_handshake :
    txnOf Tc1.config 0x100000400007 = some (.wrHsCmd 0 0 0x07) ∧
    txnOf Tc1.config 0x010000A00000 = some (.rdHsCmd 1 0) ∧
    txnOf Tc1.config 0x110000A00199 = some (.wrHsRes 1 0 0x99) ∧
    txnOf Tc1.config 0x000000400100 = some (.rdHsRes 0 0) ∧
    txnOf Tc1.config 0x010000A00200 = some (.rdHsStatus 1 0) ∧
    txnOf Tc1.config 0x10000040105A = some (.wrMcuData 0 0 0x5A) ∧
    txnOf Tc1.config 0x000000401000 = some (.rdMcuData 0 0) ∧
    txnOf Tc1.config 0x000000401100 = some (.rdMcuStatus 0 0) ∧
    txnOf Tc1.config 0x120000000506 = some (.wrMcuDdr 2 0 .b 0x06) ∧
    txnOf Tc1.config 0x1200000000A5 = some (.wrMcuPort 2 0 .a 0xA5) ∧
    txnOf Tc1.config 0x020000000100 = some (.rdMcuPort 2 0 .b) := by decide

theorem test_decode_bus_video :
    txnOf Tc1.config 0x100000404712 = some (.wrVreg 0 0 7 0x12) ∧
    txnOf Tc1.config 0x1000004040F0 = some (.wrVregScrollxLo 0 0 0xF0) ∧
    txnOf Tc1.config 0x100000404901 = some (.wrVregScrollxHi 0 1 0x01) ∧
    txnOf Tc1.config 0x100000404208 = some (.wrVregScrolly 0 0 0x08) ∧
    txnOf Tc1.config 0x100000404302 = some (.wrVregBank 0 0 0x02) ∧
    txnOf Tc1.config 0x100000404C03 = some (.wrVregCtrl 0 1 0x03) ∧
    txnOf Tc1.config 0x100000520CE0 = some (.wrPalette 0 6 0 0x0C 0xE0) ∧
    txnOf Tc1.config 0x00000052FF00 = some (.rdPalette 0 6 0 0xFF) := by decide

/-! ### Decoding: operation words, the key of R103 and the operand bytes of log entry 4 -/

theorem test_decode_op_memory :
    decode [0x00, 2, 0x34, 0x12, 0, 0, 9] = some (.rdOpen 2 0x1234, [9]) ∧
    decode [0x80, 2, 0x34, 0x12, 0, 0, 0x77] = some (.wrOpen 2 0x1234 0x77, []) ∧
    decode [0x01, 1, 3, 1, 0x10, 0, 0, 0, 0xFF, 7, 0, 0] = some (.rdRam 1 0x103 0x10 0x7FF, []) ∧
    decode [0x81, 1, 3, 1, 0x10, 0, 0, 0, 0xFF, 7, 0, 0, 5] = some (.wrRam 1 0x103 0x10 0x7FF 5, []) ∧
    decode [0x02, 1, 3, 1, 0x10, 0, 0, 0, 0xFF, 7, 0, 0x80] = some (.rdRom 1 0x103 0x10 0x800007FF, []) ∧
    decode [0x03, 1, 2, 0, 5, 0, 0, 0] = some (.rdBank 1 2 5, []) ∧
    decode [0x83, 1, 2, 0, 5, 0, 0, 0, 6] = some (.wrBank 1 2 5 6, []) := by decide

theorem test_decode_op_windows :
    decode [0x84, 1, 2, 0, 0x13] = some (.wrBanksel 1 2 0x13, []) ∧
    decode [0x05, 1, 2, 0, 5, 0, 0, 0] = some (.rdShared 1 2 5, []) ∧
    decode [0x85, 1, 2, 0, 5, 0, 0, 0, 6] = some (.wrShared 1 2 5 6, []) ∧
    decode [0x90, 1, 2, 0, 5, 0, 0, 0, 6] = some (.wrSound 1 2 5 6, []) ∧
    decode [0x10, 1, 2, 0, 5, 0, 0, 0] = some (.rdSound 1 2 5, []) ∧
    decode [0x11, 1, 2, 0] = some (.rdSoundBusy 1 2, []) ∧
    decode [0x12, 1, 2, 0, 0, 0, 5, 0, 0, 0] = some (.rdInput 1 2 5, []) := by decide

theorem test_decode_op_interrupts :
    decode [0x86, 1, 2, 3, 0, 7, 8] = some (.wrIrqen 1 2 3 7 8, []) ∧ decode [0x86, 1, 2, 3, 0, 8, 8] = none ∧
    decode [0x87, 1, 2, 3] = some (.wrNmien 1 2 3, []) ∧
    decode [0x88, 1, 2, 2, 0, 9] = some (.wrIrqclr 1 2 .irq 9, []) ∧
    decode [0x40, 1, 1] = some (.intQuery 1 true, []) ∧ decode [0x40, 1, 2] = none ∧
    decode [0x41, 1, 3, 0, 1] = some (.intAssert 1 .irq1 .level, []) ∧
    decode [0x42, 1, 1, 0] = some (.intClear 1 .firq, []) ∧
    decode [0x43, 1] = some (.nmiTrigger 1, []) := by decide

theorem test_decode_op_handshake :
    decode [0x89, 1, 2, 0, 7] = some (.wrHsCmd 1 2 7, []) ∧ decode [0x09, 1, 2, 0] = some (.rdHsCmd 1 2, []) ∧
    decode [0x8A, 1, 2, 0, 7] = some (.wrHsRes 1 2 7, []) ∧ decode [0x0A, 1, 2, 0] = some (.rdHsRes 1 2, []) ∧
    decode [0x0B, 1, 2, 0] = some (.rdHsStatus 1 2, []) ∧
    decode [0x46, 1] = some (.hsYield 1, []) := by decide

theorem test_decode_op_link :
    decode [0x8C, 1, 2, 0, 7] = some (.wrMcuData 1 2 7, []) ∧ decode [0x0C, 1, 2, 0] = some (.rdMcuData 1 2, []) ∧
    decode [0x0D, 1, 2, 0] = some (.rdMcuStatus 1 2, []) ∧
    decode [0x8F, 1, 2, 0, 1, 7] = some (.wrMcuDdr 1 2 .b 7, []) ∧
    decode [0x8E, 1, 2, 0, 0, 7] = some (.wrMcuPort 1 2 .a 7, []) ∧
    decode [0x0E, 1, 2, 0, 1] = some (.rdMcuPort 1 2 .b, []) ∧ decode [0x0E, 1, 2, 0, 2] = none ∧
    decode [0x44, 2, 1] = some (.actLatchFromMain 0x102, []) ∧ decode [0x45, 2, 1] = some (.actSendToMain 0x102, []) := by decide

theorem test_decode_op_video :
    decode [0x93, 0, 1, 2, 0, 7, 0, 0, 0, 9] = some (.wrVreg 1 2 7 9, []) ∧
    decode [0x93, 1, 1, 2, 0, 9] = some (.wrVregScrollxLo 1 2 9, []) ∧
    decode [0x93, 2, 1, 2, 0, 9] = some (.wrVregScrollxHi 1 2 9, []) ∧
    decode [0x93, 3, 1, 2, 0, 9] = some (.wrVregScrolly 1 2 9, []) ∧
    decode [0x93, 4, 1, 2, 0, 9] = some (.wrVregBank 1 2 9, []) ∧
    decode [0x93, 5, 1, 2, 0, 9] = some (.wrVregCtrl 1 2 9, []) ∧ decode [0x93, 6, 1, 2, 0, 9] = none ∧
    decode [0x94, 1, 6, 0, 2, 0, 0, 0, 3, 0, 0, 0, 9] = some (.wrPalette 1 6 2 3 9, []) ∧
    decode [0x14, 1, 6, 0, 2, 0, 0, 0, 3, 0, 0, 0] = some (.rdPalette 1 6 2 3, []) := by decide

theorem test_decode_op_compositor :
    decode [0x48] = some (.schedSlice, []) ∧ decode [0x49] = some (.schedFrame, []) ∧
    decode [0x4A] = some (.compose, []) ∧
    decode [0x50, 1, 0, 0x3F, 0, 0, 0] = some (.tileResolve 1 0x3F, []) ∧
    decode [0x51, 1, 0, 1] = some (.layerDraw 1 true, []) ∧
    decode [0x52, 0x3F, 0, 0, 0] = some (.spriteDecode 0x3F, []) ∧
    decode ([0x53, 5, 1, 0, 0, 0xF8, 0xFF, 0xFF, 0xFF, 0x20, 0, 0, 0, 3, 0, 0, 0, 1, 0, 2] ++ [0, 0, 0, 0, 1]) =
      some (.spriteDraw ⟨0x105, -8, 0x20, 3, true, false, 2, 0⟩ true, []) ∧
    decode [0x54] = some (.paletteResolve, []) ∧ decode [0x58] = some (.reset, []) ∧
    decode [0x59] = some (.configCheck, []) := by decide

/-- Keys that R92 reserves, and a direction that the table of R91 marks "no", are no operation. -/
theorem test_decode_reserved :
    decode [0x04, 0, 0, 0] = none ∧ decode [0x82, 0, 0, 0] = none ∧ decode [0x15] = none ∧ decode [0x47] = none ∧
    decode [0x7F] = none ∧ decode [0xC0] = none ∧ decodeWord 0x500000000000 = none ∧
    decodeWord 0x200000000001 = none := by decide

/-! ### Vectors: one step each, from the premise or from the start its row of 95_test_vectors.md gives -/

/-- RD.OPEN, WR.OPEN: S1, V3, V4. -/
theorem test_open :
    got (bus premise 0 0x000000440000) = some 0xFF ∧ got (bus premise 0 0x000000403000) = some 0xFF ∧
    see (bus premise 0 0x100000440077) id = some { premise with slicePos := .afterTxn } ∧
    see (bus premise 0 0x100000400255) id = some { premise with slicePos := .afterTxn } := by decide +kernel

/-- RD.RAM: V2 before and after its write. -/
theorem test_rdRam :
    got (bus premise 0 0x00000007FF00) = some 0x00 ∧
    got (bus (poke premise [(3, 0x7FF, 0xAB)]) 0 0x00000007FF00) = some 0xAB := by decide +kernel

/-- WR.RAM: P2 line 13. -/
theorem test_wrRam : see (bus premise 0 0x10000000105A) (fun t => (t.memRead 3 0x10, t.memRead 3 0x11)) =
    some (0x5A, 0x00) := by decide +kernel

/-- WR.RAM: V65, the dirty flag of layer 1. -/
theorem test_wrRam_dirty :
    see (bus ((premise.setDirty 1 false).setDirty 0 false) 0 0x1000004C0507) (fun t => (t.dirtyOf 1, t.dirtyOf 0)) =
      some (true, false) := by decide +kernel

/-- RD.ROM: P2 line 12, V5. -/
theorem test_rdRom : got (bus premise 0 0x000000F00100) = some 0x01 ∧ got (bus premise 0 0x000000800000) = some 0x00 := by
  decide +kernel

/-- RD.BANK: P2 lines 3, 5 and 1. -/
theorem test_rdBank :
    got (bus (premise.setBank 0 3) 0 0x000000612300) = some 0x33 ∧
    got (bus (premise.setBank 0 15) 0 0x0000007FFF00) = some 0xFF ∧
    got (bus premise 0 0x000000600000) = some 0x00 := by decide +kernel

/-- WR.BANK: V9, the region byte 0x4005 under bank 2. -/
theorem test_wrBank :
    see (bus ((premiseOf tc1Ram).setBank 0 2) 0 0x100000600577) (fun t => (t.memRead 1 0x4005, t.memRead 1 0x0005)) =
      some (0x77, 0x00) := by decide +kernel

/-- WR.BANKSEL: S2, under TC1 and under a mask of 0x07 (TC1-M8). -/
theorem test_wrBanksel :
    see (bus premise 0 0x100000403013) (·.bankIdx 0) = some 3 ∧
    see (bus premise 0 0x1000004030FF) (·.bankIdx 0) = some 15 ∧
    see (bus (premiseOf { Tc1.config with banks := [⟨1, 0, 0x2000, 0x07⟩] }) 0 0x10000040300B) (·.bankIdx 0) = some 3 := by
  decide +kernel

/-- WR.SHARED: P1 line 1. -/
theorem test_wrShared : see (bus premise 0 0x100000201042) (·.memRead 2 0x10) = some 0x42 := by decide +kernel

/-- RD.SHARED: P1 line 9 and V10, the last byte of the region. -/
theorem test_rdShared :
    got (bus (poke premise [(2, 0x10, 0x42)]) 1 0x010000801000) = some 0x42 ∧
    got (bus (poke premise [(2, 0x1FFF, 0x77)]) 1 0x0100009FFF00) = some 0x77 := by decide +kernel

/-- WR.SOUND: V13, the event and no block state. -/
theorem test_wrSound : see (bus premise 1 0x110000C0013F) id =
    some { premise with turn := 1, slicePos := .afterTxn, trace := [.soundWrite 0 1 0x3F] } := by decide +kernel

/-- RD.SOUND and RD.INPUT: V13, V12: a draw, any byte; one draw has been made. -/
theorem test_draws :
    see (bus premise 1 0x010000C00000) (fun t => (t.trace, t.draws)) = some ([.read 1 (Config.drawSoundRead 0 0 0)], 1) ∧
    see (bus premise 0 0x000000402100) (fun t => (t.trace, t.draws)) = some ([.read 0 (Config.drawInputPort 1 0)], 1) :=
  ⟨rfl, rfl⟩

/-- RD.SOUND_BUSY: V13: 0x00 or 0x01. -/
theorem test_rdSoundBusy (b : Bool) (h : Config.drawSoundBusy 0 0 = b) :
    got (bus premise 1 0x010000C00200) = some (if b then 0x01 else 0x00) := by
  have e : got (bus premise 1 0x010000C00200) = some (BitVec.ofNat 8 (bitVal (Config.drawSoundBusy 0 0) <<< 0)) := rfl
  rw [e, h]; cases b <;> rfl

/-- WR.IRQEN: V22, only the designated bit counts. -/
theorem test_wrIrqen :
    see (bus premise 0 0x1000004050FF) (·.irqEn 0 1) = some true ∧
    see (bus (premise.setIrqEn 0 1 true) 0 0x100000405001) (·.irqEn 0 1) = some false := by decide +kernel

/-- WR.NMIEN: V27, without and with the enable bit. -/
theorem test_wrNmien :
    see (bus (premise.setNmiPending 1 true) 1 0x110000E000FE) (fun t => (t.nmiEn 1, t.nmiPending 1, t.asserted 1 .nmi)) =
      some (false, true, .none) ∧
    see (bus (premise.setNmiPending 1 true) 1 0x110000E00001) (fun t => (t.nmiEn 1, t.nmiPending 1, t.asserted 1 .nmi)) =
      some (true, false, .pulse) := by decide +kernel

/-- WR.IRQCLR: V25. -/
theorem test_wrIrqclr :
    see (bus (premise.setAsserted 0 .irq .level) 0 0x100000405100) (·.asserted 0 .irq) = some .none := by decide +kernel

/-- WR.HS_CMD: P1 line 2 (NMIs disabled) and V26 (enabled: one PULSE at once). -/
theorem test_wrHsCmd :
    see (bus premise 0 0x100000400007) (fun t => (t.hsOf 0, t.nmiPending 1, t.asserted 1 .nmi, t.yieldReq)) =
      some (⟨0x07, 0, 0b01⟩, true, .none, false) ∧
    see (bus (premise.setNmiEn 1 true) 0 0x100000400005) (fun t => (t.nmiPending 1, t.asserted 1 .nmi)) =
      some (false, .pulse) := by decide +kernel

/-- WR.HS_CMD under synchronous delivery: V43. -/
theorem test_wrHsCmd_sync :
    see (bus (premiseOf (tc1Hs fun h => { h with syncDelivery := true })) 0 0x100000400007) (·.yieldReq) = some true := by
  decide +kernel

/-- RD.HS_CMD: P1 lines 7 and 8. -/
theorem test_rdHsCmd :
    see (bus (premise.setHs 0 ⟨0x08, 0, 0b01⟩) 1 0x010000A00000) (fun t => (t.hsOf 0, t.trace)) =
      some (⟨0x08, 0, 0b00⟩, [.read 1 0x08]) ∧
    see (bus (premise.setHs 0 ⟨0x08, 0, 0b00⟩) 1 0x010000A00000) (fun t => (t.hsOf 0, t.trace)) =
      some (⟨0x08, 0, 0b00⟩, [.read 1 0x08]) := by decide +kernel

/-- WR.HS_RES: V42, with the other bit set too. -/
theorem test_wrHsRes :
    see (bus (premise.setHs 0 ⟨0x09, 0, 0b01⟩) 1 0x110000A00155) (·.hsOf 0) = some ⟨0x09, 0x55, 0b11⟩ := by decide +kernel

/-- RD.HS_RES: V42: 0x55, and status 0x01 is left. -/
theorem test_rdHsRes :
    see (bus (premise.setHs 0 ⟨0x09, 0x55, 0b11⟩) 0 0x000000400100) (fun t => (t.hsOf 0, t.trace)) =
      some (⟨0x09, 0x55, 0b01⟩, [.read 0 0x55]) := by decide +kernel

/-- RD.HS_STATUS: V42, and S13 under INVERT_MASK 0x03. -/
theorem test_rdHsStatus :
    got (bus (premise.setHs 0 ⟨0x09, 0x55, 0b11⟩) 0 0x000000400200) = some 0x03 ∧
    got (bus (premiseOf (tc1Hs fun h => { h with invertMask := 0x03 })) 1 0x010000A00200) = some 0x03 ∧
    got (bus ((premiseOf (tc1Hs fun h => { h with invertMask := 0x03 })).setHs 0 ⟨1, 0, 0b01⟩) 1 0x010000A00200) =
      some 0x02 := by decide +kernel

/-- WR.MCU_DATA: P3 line 2. -/
theorem test_wrMcuData :
    see (bus premise 0 0x10000040105A) (fun t => (t.linkOf 0, t.asserted 0 .irq)) =
      some (⟨0x5A, 0, true, false, 0, 0, 0, 0, 0⟩, .none) := by decide +kernel

/-- RD.MCU_DATA: P3 line 18. -/
theorem test_rdMcuData :
    see (bus ((premise.setLink 0 ⟨0x5A, 0xA5, false, true, 0, 0, 0, 0, 0⟩).setAsserted 0 .irq .level) 0 0x000000401000)
      (fun t => ((t.linkOf 0).mcuSent, t.asserted 0 .irq, t.trace)) = some (false, .none, [.read 0 0xA5]) := by
  decide +kernel

/-- RD.MCU_STATUS: P3 lines 1 and 17, V52. -/
theorem test_rdMcuStatus :
    got (bus premise 0 0x000000401100) = some 0x01 ∧
    got (bus (premise.setLink 0 ⟨0, 0, false, true, 0, 0, 0, 0, 0⟩) 0 0x000000401100) = some 0x03 ∧
    got (bus (premise.setLink 0 ⟨0, 0, true, true, 0, 0, 0, 0, 0⟩) 0 0x000000401100) = some 0x02 := by decide +kernel

/-- WR.MCU_DDR: P3 line 6, and V46: a DDR write that drops an output high triggers nothing. -/
theorem test_wrMcuDdr :
    see (bus premise 2 0x120000000506) (·.linkOf 0) = some ⟨0, 0, false, false, 0, 0, 0, 0x06, 0⟩ ∧
    see (bus (premise.setLink 0 ⟨0x5A, 0, true, false, 0, 0x02, 0, 0x02, 0⟩) 2 0x120000000500) (·.linkOf 0) =
      some ⟨0x5A, 0, true, false, 0, 0x02, 0, 0x00, 0⟩ := by decide +kernel

/-- WR.MCU_PORT: S12 (bit 1 falls) and V48 (bit 1 falls and bit 2 rises: both actions, in table order). -/
theorem test_wrMcuPort :
    see (bus ((premise.setLink 0 ⟨0x5A, 0, false, false, 0, 0x02, 0, 0x02, 0⟩).setAsserted 0 .irq .level) 2 0x120000000100)
      (fun t => (t.linkOf 0, t.asserted 0 .irq)) = some (⟨0x5A, 0, false, false, 0, 0x00, 0, 0x02, 0x5A⟩, .none) ∧
    see (bus (premise.setLink 0 ⟨0x5A, 0, true, false, 0, 0x02, 0, 0x06, 0⟩) 2 0x120000000104)
      (fun t => (t.linkOf 0, t.asserted 0 .irq)) = some (⟨0x5A, 0x5A, false, true, 0, 0x04, 0, 0x06, 0x5A⟩, .level) := by
  decide +kernel

/-- WR.MCU_PORT: V46 and V45: a pin that is not an output neither stores nor triggers; V47's second write. -/
theorem test_wrMcuPort_gated :
    see (bus (premise.setLink 0 ⟨0x5A, 0, true, false, 0, 0x02, 0, 0x00, 0⟩) 2 0x120000000100) (·.linkOf 0) =
      some ⟨0x5A, 0, true, false, 0, 0x02, 0, 0x00, 0⟩ ∧
    see (bus premise 2 0x120000000102) (·.linkOf 0) = some ⟨0, 0, false, false, 0, 0x00, 0, 0x00, 0⟩ ∧
    see (bus (premise.setLink 0 ⟨0, 0x3C, false, false, 0x55, 0x04, 0xFF, 0x06, 0⟩) 2 0x120000000106) (·.linkOf 0) =
      some ⟨0, 0x3C, false, false, 0x55, 0x06, 0xFF, 0x06, 0⟩ := by decide +kernel

/-- RD.MCU_PORT: V49 on port A, V50 on port B. -/
theorem test_rdMcuPort :
    got (bus (premise.setLink 0 ⟨0, 0, false, false, 0x05, 0, 0x0F, 0, 0x5A⟩) 2 0x020000000000) = some 0x55 ∧
    got (bus (premise.setLink 0 ⟨0, 0, false, false, 0, 0x04, 0, 0x06, 0⟩) 2 0x020000000100) =
      some (0x04 ||| (Config.drawPortBIn 0 0 &&& 0xF9)) := ⟨by decide +kernel, rfl⟩

/-- WR.VREG and its five registers: V60 (no field), V61, V62, V67, V63. -/
theorem test_vreg :
    see (bus premise 0 0x100000404712) id = some { premise with slicePos := .afterTxn } ∧
    see (bus premise 0 0x1000004040F0) (fun t => scrollX Tc1.layer0 (t.vregOf 0)) = some 0x0F0 ∧
    see (bus (premise.setVreg 0 ⟨0xF0, 0, 0, 0, 0⟩) 0 0x1000004041FF) (fun t => scrollX Tc1.layer0 (t.vregOf 0)) =
      some 0x1F0 ∧
    see (bus (premise.setVreg 1 ⟨0x34, 0, 0, 0, 0⟩) 0 0x100000404901) (fun t => scrollX Tc1.layer1 (t.vregOf 1)) =
      some 0x34 ∧
    see (bus premise 0 0x100000404210) (·.vregOf 0) = some ⟨0, 0, 0x10, 0, 0⟩ := by decide +kernel

/-- WR.VREG.BANK: V64; WR.VREG.CTRL: S11 (layer 0 carries an enable bit) and V63 (layer 1 does not). -/
theorem test_vreg_bank_ctrl :
    see (bus (premise.setDirty 0 false) 0 0x100000404300) (·.dirtyOf 0) = some true ∧
    see (bus premise 0 0x100000404402) (fun t => ((t.vregOf 0).vctrl, t.irqEn 0 0)) = some (0x02, true) ∧
    see (bus premise 0 0x100000404C03) (fun t => ((t.vregOf 1).vctrl, t.irq)) = some (0x03, []) := by decide +kernel

/-- The five register operations as operation words, each on its own register (R231 to R235). -/
theorem test_vreg_words :
    [1, 2, 3, 4, 5].map (fun f => see (step { premise with slot := some [0x93, f, 0, 1, 0, 9] }) (·.vregOf 1)) =
      [some ⟨9, 0, 0, 0, 0⟩, some ⟨0, 9, 0, 0, 0⟩, some ⟨0, 0, 9, 0, 0⟩, some ⟨0, 0, 0, 9, 0⟩, some ⟨0, 0, 0, 0, 9⟩] := by
  decide +kernel

/-- WR.PALETTE and RD.PALETTE: V66. -/
theorem test_palette :
    see (bus premise 0 0x1000005205E0) (fun t => (t.memRead 6 5, t.memRead 6 6)) = some (0xE0, 0x00) ∧
    got (bus (poke premise [(6, 5, 0xE0)]) 0 0x000000520500) = some 0xE0 := by decide +kernel

/-- INT.QUERY: V29: the PULSE of IRQ is delivered and cleared, IRQ1 stays. -/
theorem test_intQuery_pulse :
    see (step { (premise.setAsserted 0 .irq .pulse).setAsserted 0 .irq1 .pulse with slot := some [0x40, 0, 0] })
      (fun t => (t.trace, t.asserted 0 .irq, t.asserted 0 .irq1)) = some ([.interrupt 0 (some .irq)], .none, .pulse) := by
  decide +kernel

/-- INT.QUERY: V24: an enabled line of higher priority first, the LEVEL stays; V28 (a) and R169: early, asserted only. -/
theorem test_intQuery_order :
    see (step { (premise.setAsserted 0 .irq .level).setIrqEn 0 0 true with slot := some [0x40, 0, 0] })
      (fun t => (t.trace, t.asserted 0 .irq)) = some ([.interrupt 0 (some .firq)], .level) ∧
    see (step { (premise.setAsserted 0 .irq .level).setIrqEn 0 0 true with slot := some [0x40, 0, 1] })
      (fun t => (t.trace, t.asserted 0 .irq)) = some ([.interrupt 0 (some .irq)], .level) := by decide +kernel

/-- INT.ASSERT: V30; INT.CLEAR: R164. -/
theorem test_intAssert :
    see (step { premise.setAsserted 0 .irq .pulse with slot := some [0x41, 0, 2, 0, 1] }) (·.asserted 0 .irq) =
      some .level ∧
    see (step { premise.setAsserted 0 .irq .level with slot := some [0x41, 0, 2, 0, 0] }) (·.asserted 0 .irq) =
      some .level ∧
    see (step { premise.setAsserted 0 .irq .level with slot := some [0x42, 0, 2, 0] }) (·.asserted 0 .irq) =
      some .none := by decide +kernel

/-- NMI.TRIGGER: R165 on both sides of the enable. -/
theorem test_nmiTrigger :
    see (step { premise with slot := some [0x43, 1] }) (fun t => (t.nmiPending 1, t.asserted 1 .nmi)) =
      some (true, .none) ∧
    see (step { premise.setNmiEn 1 true with slot := some [0x43, 1] }) (fun t => (t.nmiPending 1, t.asserted 1 .nmi)) =
      some (false, .pulse) := by decide +kernel

/-- ACT.LATCH_FROM_MAIN: V51; ACT.SEND_TO_MAIN: V47. -/
theorem test_portActions :
    see (step { premise.setLink 0 ⟨0x77, 0, false, false, 0, 0, 0, 0, 0⟩ with slot := some [0x44, 0, 0] }) (·.linkOf 0) =
      some ⟨0x77, 0, false, false, 0, 0, 0, 0, 0x77⟩ ∧
    see (step { premise.setLink 0 ⟨0, 0, false, false, 0x3C, 0, 0xFF, 0x06, 0⟩ with slot := some [0x45, 0, 0] })
      (fun t => (t.linkOf 0, t.asserted 0 .irq)) =
        some (⟨0, 0x3C, false, true, 0x3C, 0, 0xFF, 0x06, 0⟩, .level) := by decide +kernel

/-- HS.YIELD: R195; and after it only SLICE is valid (V43). -/
theorem test_hsYield :
    see (step { premise with slot := some [0x46, 0] }) (·.yieldReq) = some true ∧
    refusal (bus { premise with yieldReq := true } 0 0x000000440000) = some .scriptInvalid := by decide +kernel

/-- SCHED.SLICE: V122, the end of a slice and of a round; V123, V124: an invalid script. -/
theorem test_schedSlice :
    see (bus premise 0 0x300000000000) (fun t => (t.turn, t.round)) = some (1, 0) ∧
    see (bus { premise with round := 3 } 2 0x300000000000) (fun t => (t.turn, t.round)) = some (0, 4) ∧
    refusal (bus premise 0 0x400000000000) = some .scriptInvalid ∧
    refusal (bus premise 0 0x010000A00000) = some .scriptInvalid := by decide +kernel

/-- SCHED.SLICE: a whole slice as one operation: its transactions, then its end (R311). -/
theorem test_schedSlice_whole :
    see (step { premise with slot := some [0x48], input := scriptOfWords [0x100000403013, 0x000000600000, 0x300000000000, 7] })
      (fun t => (t.bankIdx 0, t.trace, t.turn, t.input)) = some (3, [.read 0 0x30], 1, [none]) := by decide +kernel

/-- SCHED.FRAME: V121's last line. -/
theorem test_schedFrame :
    see (step { premise with round := 4, input := [some .frame] }) (fun t => (t.frame, t.round, t.turn, t.input)) =
      some (1, 0, 0, []) := by decide +kernel

/-- TILE.RESOLVE: V71, V72 and V73: the bank register enters the tile number, which is clamped. -/
theorem test_tileResolve :
    [0, 1, 2, 4].map (fun v => see (step { (poke premise [(4, 0, 0xE0), (4, 0x800, 0x12)]).setVreg 0 ⟨0, 0, 0, v, 0⟩ with
        slot := some [0x50, 0, 0, 0, 0, 0, 0] }) event) =
      [some (some (.tile ⟨0x712, 0, false, false⟩)), some (some (.tile ⟨0x712, 0, false, false⟩)),
        some (some (.tile ⟨0xF12, 0, false, false⟩)), some (some (.tile ⟨0xFFF, 0, false, false⟩))] := by decide +kernel

/-- TILE.RESOLVE: V74 (flip X) and V75 (colour 3). -/
theorem test_tileResolve_attr :
    [0xF0, 0xE3].map (fun a => see (step { poke premise [(4, 0, a), (4, 0x800, 0x12)] with
        slot := some [0x50, 0, 0, 0, 0, 0, 0] }) event) =
      [some (some (.tile ⟨0x712, 0, true, false⟩)), some (some (.tile ⟨0x712, 3, false, false⟩))] := by decide +kernel

/-- LAYER.DRAW: V71, V76 (scroll X wraps) and V77 (scroll Y wraps). -/
theorem test_layerDraw :
    let s := poke premise [(4, 0, 0xE0), (4, 0x800, 0x12), (4, 0x3F, 0xE0), (4, 0x83F, 0x12)]
    let shown := fun (s : State) (fs : Byte) (l : List (Nat × Nat)) =>
      see (step { s with slot := some [0x51, 0, 0, fs] }) (fun t => l.map fun p => pixelAt t.fb p.1 p.2)
    shown s 0 [(3, 0), (0, 0), (0, 3), (4, 7), (8, 0)] = some [12, 9, 12, 4, 0] ∧
    shown (s.setVreg 0 ⟨0xF8, 0x01, 0, 0, 0⟩) 0 [(0, 0), (8, 0)] = some [9, 9] ∧
    shown (s.setVreg 0 ⟨0, 0, 0xFF, 0, 0⟩) 0 [(3, 1), (3, 0)] = some [12, 0] := by decide +kernel

/-- LAYER.DRAW: V74 (tile flip), V78 (screen flip) and V79 (layer 1 over layer 0, transparent at pen 0). -/
theorem test_layerDraw_flip :
    let shown := fun (s : State) (l fs : Byte) (ps : List (Nat × Nat)) =>
      see (step { s with slot := some [0x51, l, 0, fs] }) (fun t => ps.map fun p => pixelAt t.fb p.1 p.2)
    shown (poke premise [(4, 0, 0xF0), (4, 0x800, 0x12)]) 0 0 [(3, 0), (0, 0)] = some [13, 0] ∧
    shown (poke premise [(4, 0, 0xE0), (4, 0x800, 0x12)]) 0 1 [(255, 223), (252, 223), (3, 0)] = some [9, 12, 0] ∧
    shown { poke premise [(9, 0, 0x10), (9, 0x400, 0x02)] with fb := [[7, 7, 7, 7, 7, 7, 7, 7]] } 1 0 [(0, 0)] =
      some [0x52] := by decide +kernel

/-- SPRITE.DECODE: S9's example entry, V82 (the sentinel), V86 and V85 (the ninth bit, the sign). -/
theorem test_spriteDecode :
    let entry := fun (s : State) (l : List Byte) =>
      see (step { poke s (l.zipIdx.map fun p => (5, p.2, p.1)) with slot := some [0x52, 0, 0, 0, 0] }) event
    entry premise [0x40, 0x21, 0x90, 0xF8, 0x03] =
      some (some (.sprite (some ⟨0x121, 0x1F8, 0x40, 0, false, true, 1, 0⟩))) ∧
    entry premise [0xF8, 0x05, 0x03, 0x10, 0x00] = some (some (.sprite none)) ∧
    entry (premiseOf { Tc1.config with xExtMode := .sign }) [0x20, 0x05, 0x03, 0xF8, 0x01] =
      some (some (.sprite (some ⟨5, -8, 0x20, 3, false, false, 0, 0⟩))) := by decide +kernel

/-- SPRITE.DRAW: V80, V81 (flip X), V87 (screen flip), V85 (part of it off the screen). -/
theorem test_spriteDraw :
    let shown := fun (r : SpriteRec) (fs : Bool) (l : List (Nat × Nat)) =>
      see (step { premise with fb := fillScreen Tc1.config 0, slot := some (encode (.spriteDraw r fs)) })
        (fun t => l.map fun p => pixelAt t.fb p.1 p.2)
    shown ⟨5, 0x10, 0x20, 3, false, false, 0, 0⟩ false [(16, 32), (27, 32), (31, 47), (15, 32)] =
      some [0xB5, 0, 0xB3, 0] ∧
    shown ⟨5, 0x10, 0x20, 3, true, false, 0, 0⟩ false [(16, 32)] = some [0xB4] ∧
    shown ⟨5, 0x10, 0x20, 3, false, false, 0, 0⟩ true [(224, 176)] = some [0xB3] ∧
    shown ⟨5, -8, 0x20, 3, false, false, 0, 0⟩ false [(0, 32)] = some [0xBD] := by decide +kernel

/-- SPRITE.DRAW: the arrangement of S9 for 32×32, unflipped and flipped both ways, and the clamp of V84. -/
theorem test_subtiles :
    (subtiles Tc1.sprites ⟨5, 0, 0, 0, false, false, 3, 0⟩ false false) =
      [⟨5, 0, 0⟩, ⟨6, 1, 0⟩, ⟨7, 0, 1⟩, ⟨8, 1, 1⟩] ∧
    (subtiles Tc1.sprites ⟨5, 0, 0, 0, true, true, 3, 0⟩ true true) =
      [⟨5, 1, 1⟩, ⟨6, 0, 1⟩, ⟨7, 1, 0⟩, ⟨8, 0, 0⟩] ∧
    (subtiles Tc1.sprites ⟨5, 0, 0, 0, false, true, 1, 0⟩ false true) = [⟨5, 0, 1⟩, ⟨6, 0, 0⟩] ∧
    (subtiles Tc1.sprites ⟨0x7FF, 0, 0, 0, false, false, 3, 0⟩ false false).map (·.code) =
      [0x7FF, 0x7FF, 0x7FF, 0x7FF] := by decide

/-- COMPOSE: V80 and V89: the later sprite of the order is on top. -/
theorem test_compose :
    let s := poke (premiseOf { Tc1.config with sprites := { Tc1.sprites with spriteOrder := [0, 1] } })
      [(5, 0, 0x20), (5, 1, 5), (5, 2, 3), (5, 3, 0x10), (5, 5, 0x20), (5, 6, 5), (5, 7, 4), (5, 8, 0x10)]
    see (step { s with slot := some [0x4A] }) (fun t => (pixelAt t.fb 16 32, pixelAt t.fb 27 32, t.dirtyOf 0)) =
      some (0xC5, 0, false) := by decide +kernel

/-- PALETTE.RESOLVE: V90, six palette bytes decoded as 3-3-2. -/
theorem test_paletteResolve :
    let s := poke premise [(6, 0, 0xE0), (6, 1, 0x1C), (6, 2, 0x03), (6, 3, 0xFF), (6, 4, 0x49)]
    see (step { s with fb := [[0, 1, 2, 3, 4, 5]], slot := some [0x54] }) (fun t => match t.trace with
      | .colours (row :: _) :: _ => row.take 6
      | _ => []) =
      some [⟨255, 0, 0⟩, ⟨0, 255, 0⟩, ⟨0, 0, 255⟩, ⟨255, 255, 255⟩, ⟨72, 72, 85⟩, ⟨0, 0, 0⟩] := by decide +kernel

/-- RESET: V125: from a running machine with every kind of register written, the state right after reset. -/
theorem test_reset :
    see (step { (((((((poke premise [(3, 1, 2)]).setBank 0 3).setNmiPending 1 true).setHs 0 ⟨1, 2, 3⟩).setLink 0
      ⟨1, 1, true, true, 1, 1, 1, 1, 1⟩).setVreg 1 ⟨1, 1, 1, 1, 1⟩).setDirty 0 false) with
      frame := 3, round := 2, turn := 1, yieldReq := true, slot := some [0x58] }) id = some State.reset := by decide +kernel

/-- CONFIG.CHECK: V120: TC1 passes. -/
theorem test_configCheck : see (step State.reset) (·.phase) = some .running := by decide +kernel

/-- A change of the maps of a CPU of TC1. -/
def tc1Cpu (c : Nat) (f : CpuCfg → CpuCfg) : Config := { Tc1.config with cpus := Tc1.config.cpus.modify c f }

/-- CONFIG.CHECK's errors: V100, V102, V103, V104, V105. -/
theorem test_configCheck_entries :
    checkConfig (tc1Cpu 0 fun c => { c with readMap := c.readMap.insertIdx 9 ⟨0x4060, 0x4060, .reserved 0x15⟩ }) =
      some ⟨.tag, .entry 0 .read 0x4060 0x4060⟩ ∧
    checkConfig (tc1Cpu 0 fun c => { c with writeMap := c.writeMap ++ [⟨0x8000, 0xFFFF, .rom 0 0⟩] }) =
      some ⟨.direction, .entry 0 .write 0x8000 0xFFFF⟩ ∧
    checkConfig (tc1Cpu 1 fun c => { c with writeMap := c.writeMap.insertIdx 2 ⟨0xA000, 0xA000, .hsCmd 0⟩ }) =
      some ⟨.role, .entry 1 .write 0xA000 0xA000⟩ ∧
    checkConfig (tc1Cpu 2 fun c => { c with readMap := c.readMap.insertIdx 2 ⟨0x0002, 0x0002, .mcuStatus 0⟩ }) =
      some ⟨.role, .entry 2 .read 0x0002 0x0002⟩ ∧
    checkConfig (tc1Cpu 0 fun c => { c with writeMap := c.writeMap ++ [⟨0xFF00, 0x10000, .ram 3 0⟩] }) =
      some ⟨.range, .entry 0 .write 0xFF00 0x10000⟩ := by decide +kernel

/-- CONFIG.CHECK's errors: V106, V107, V109, V110, V111, V112. -/
theorem test_configCheck_objects :
    checkConfig (tc1Cpu 0 fun c => { c with readMap := c.readMap.insertIdx 1 ⟨0x0700, 0x07FF, .ram 7 0⟩ }) =
      some ⟨.overlap, .entry 0 .read 0x0700 0x07FF⟩ ∧
    checkConfig (tc1Cpu 0 fun c => { c with readMap := ⟨0x1000, 0x1FFF, .ram 4 0⟩ :: c.readMap.eraseIdx 1 }) =
      some ⟨.overlap, .entry 0 .read 0x0000 0x07FF⟩ ∧
    checkConfig (tc1Cpu 0 fun c => { c with readMap := c.readMap.set 1 ⟨0x1000, 0x1FFF, .ram 4 0x80⟩ }) =
      some ⟨.bounds, .entry 0 .read 0x1000 0x1FFF⟩ ∧
    checkConfig { Tc1.config with banks := [⟨1, 0, 0x2000, 0x1F⟩] } = some ⟨.bank, .bank 0⟩ ∧
    checkConfig { Tc1.config with banks := [⟨1, 0, 0x2000, 0x0C⟩] } = some ⟨.bank, .bank 0⟩ ∧
    checkConfig (tc1Cpu 1 fun c => { c with readMap := c.readMap.set 2 ⟨0x8000, 0x8FFF, .shared 0⟩ }) =
      some ⟨.shared, .entry 1 .read 0x8000 0x8FFF⟩ := by decide +kernel

/-- An error stops the machine: every later step is refused (R300, V115's order of codes). -/
theorem test_configError :
    let s := { State.reset with cfg := { Tc1.config with banks := [⟨1, 0, 0x2000, 0x0C⟩] } }
    see (step s) (fun t => (t.phase, t.error)) = some (.configError, some ⟨.bank, .bank 0⟩) ∧
    refusal (step { s with phase := .configError }) = some .configError := by decide +kernel

/-- The host's words: key 0x93 alone is WR.VREG, and the step runs the word right after reset. -/
theorem test_decodeTableWord :
    decodeTableWord 8 0x93 = some (.wrVreg 0 0 0 0) ∧ decodeTableWord 8 0x00 = some (.rdOpen 0 0) ∧
    decodeTableWord 8 0x04 = none ∧
    got (step (State.reset.withFetchWord 8 0x00)) = some 0xFF := by decide +kernel

/-- The pseudo-instructions of R103; W16 under both lane orders; SETBANK finds 0x4030 (§1.2). -/
theorem test_script :
    (Script.w16 Tc1.config 0 0x2010 0x1234).map encodeWord = [some 0x100000201012, some 0x100000201134] ∧
    (Script.w16 (tc1Cpu 0 fun c => { c with laneOrder := .lowFirst }) 0 0x2010 0x1234).map encodeWord =
      [some 0x100000201134, some 0x100000201012] ∧
    (Script.fill 0 0x10 3 0x5A).map encodeWord = [some 0x10000000105A, some 0x10000000115A, some 0x10000000125A] ∧
    (Script.setBank Tc1.config 0 0 0x13).map encodeWord = [some 0x100000403013] ∧
    Script.setBank Tc1.config 1 0 0x13 = [] := by decide

/-- An expansion past R102's fields (log entry 21): no carry, no word. -/
theorem test_script_past_the_word :
    Script.w16 Tc1.config 0 0xFFFFFFFF 0x1234 = [.write 0 0xFFFFFFFF 0x12, .write 0 0x100000000 0x34] ∧
    (Script.w16 Tc1.config 0 0xFFFFFFFF 0x1234).map encodeWord = [some 0x10FFFFFFFF12, none] ∧
    (Script.fill 16 0 1 0x5A).map encodeWord = [none] ∧ Script.w16 Tc1.config 3 0 0x1234 = [] := by decide

/-- A board of 17 CPUs, the last with 40 address bits (R7 bounds neither): its CPU reads its open bus above 2^32 (R60, R62);
an address past its space is not presented. -/
theorem test_wide_board :
    let cfg : Config := { Tc1.config with
      cpus := List.replicate 16 ⟨.z80, 16, .highFirst, 0xFF, [], [], 1, [], false, 0⟩ ++
        [⟨.z80, 40, .highFirst, 0xA7, [⟨0x100000000, 0x1000007FF, .ram 3 0⟩], [⟨0x100000000, 0x1000007FF, .ram 3 0⟩], 1,
          [], false, 0⟩] }
    got (line (premiseOf cfg) 16 (some (.read 16 0xFFFFFFFFFF))) = some 0xA7 ∧
    see (line (premiseOf cfg) 16 (some (.write 16 0x100000005 9))) (·.memRead 3 5) = some 9 ∧
    refusal (line (premiseOf cfg) 16 (some (.read 16 0x10000000000))) = some .outsideSpace := by decide +kernel

/-- A palette or bank store of the byte already held marks the layer of a tile RAM dirty too (R75; log entry 10). -/
theorem test_store_held_byte :
    see (exec (.wrPalette 0 9 0 0x7FF 0) (premise.setDirty 1 false)) (fun t => (t.memRead 9 0x7FF, t.dirtyOf 1)) =
      some (0, true) ∧
    (let cfg : Config := { tc1Ram with layers := [{ Tc1.layer0 with tileRam := 1 }, Tc1.layer1] };
      see (exec (.wrBank 0 0 5 0) ((premiseOf cfg).setDirty 0 false)) (·.dirtyOf 0)) = some true := by decide +kernel

/-! ### A small checked configuration
One CPU, one RAM buffer, one layer of one cell, one sprite: it passes CONFIG.CHECK quickly, and its running state meets
the invariant. -/

/-- A checked configuration with one of everything the statements about an invariant name. -/
def tiny : Config where
  cpus := [⟨.z80, 8, .highFirst, 0xFE, [⟨0x00, 0x1F, .ram 0 0⟩, ⟨0x20, 0x2F, .banked 0⟩, ⟨0x40, 0x5F, .shared 0⟩],
    [⟨0x00, 0x1F, .ram 0 0⟩, ⟨0x30, 0x30, .banksel 0⟩, ⟨0x40, 0x5F, .shared 0⟩], 1, [(0, .firq)], true, 0⟩]
  buffers := [⟨.ram, 32, .const 0⟩, ⟨.rom, 32, .const 7⟩]
  banks := [⟨1, 0, 16, 1⟩]
  shared := [⟨0, [⟨0, 0x40, 0x5F⟩]⟩]
  slices := 1
  intTypes := [.nmi, .firq, .irq, .irq1]
  intPriority := [.nmi, .firq, .irq, .irq1]
  handshakes := []
  links := []
  sounds := []
  layers := [{ Tc1.layer1 with
    tileRam := 0, cols := 1, rows := 1, cellAttrAddr := .const 0, cellCodeAddr := .const 1, vctrlIrq := some ⟨0, 0, 1⟩ }]
  flipSourceLayer := 0
  flipscreenBit := 0
  screenW := 2
  screenH := 2
  sprites := { Tc1.sprites with sprRam := 0, count := 1, spriteOrder := [0] }
  xExtMode := .ninthBit
  palette := { Tc1.palette with buffer := 0, paletteSize := 4 }
  drawOrder := [.layer 0, .sprites none]
  gfx := Tc1.gfx

theorem test_tiny_checked : checkConfig tiny = none := by decide +kernel

/-- CONFIG.CHECK's parameter errors: V113 and V114 on the small configuration, and a reference to a missing bank. -/
theorem test_configCheck_params :
    checkConfig { tiny with sprites := { tiny.sprites with stride := 3 } } = some ⟨.param, .param .sprites⟩ ∧
    checkConfig { tiny with drawOrder := [.layer 0, .sprites none, .layer 2] } = some ⟨.param, .param .drawOrder⟩ ∧
    checkConfig { tiny with banks := [] } = some ⟨.param, .param .readMap⟩ := by decide +kernel

/-- An owner's range of another length than the region, and an owner whose CPU has no such window (R25; log entry 9). -/
theorem test_configCheck_owners :
    checkConfig { tiny with shared := [⟨0, [⟨0, 0x40, 0x5E⟩]⟩] } = some ⟨.param, .param .shared⟩ ∧
    checkConfig { tiny with shared := [⟨0, [⟨0, 0x00, 0x1F⟩]⟩] } = some ⟨.param, .param .shared⟩ := by decide +kernel

/-- A run of one frame (R318): an open-bus read of `OPEN_BUS[0]` in the slice, one composed frame, and the word after the
FRAME line left. -/
theorem test_run :
    let o := run tiny [some (.read 0 0xFF), some .slice, some .frame, none] 1
    see o (·.frame) = some 1 ∧ see o (·.observation.reads) = some [(0, 0xFE)] ∧
      see o (·.observation.frames.length) = some 1 ∧ see o (·.input) = some [none] := by decide +kernel

/-- With no script a run ends after its frames; a configuration that fails ends it at once, with nothing observed. -/
theorem test_run_ends :
    see (run tiny [] 2) (·.observation.frames.length) = some 2 ∧
    see (run { tiny with slices := 0 } [none] 2) (·.phase) = some .configError ∧
    see (run { tiny with slices := 0 } [none] 2) (·.observation.frames.length) = some 0 := by decide +kernel

/-- The small machine in its CPU's slice. -/
def tinyRun : State := { State.reset with cfg := tiny, phase := .running, slicePos := .ready }

/-- It meets the invariant, whatever its script and slice position. -/
theorem tinyRun_inv (l : List ScriptLine) (p : SlicePos) : State.Inv { tinyRun with input := l, slicePos := p } where
  wf := rfl
  checked := fun _ => test_tiny_checked
  error := ⟨fun h => (nomatch h), fun h => absurd rfl h⟩
  bank := fun _ _ _ => Nat.zero_le _
  nmi := fun _ h => nomatch h
  turn := Nat.zero_le _
  round := Nat.zero_le _

/-- The small machine after a failed check meets it too. -/
theorem tinyError_inv :
    State.Inv { tinyRun with phase := .configError, error := some ⟨.bank, .bank 0⟩ } where
  wf := rfl
  checked := fun h => nomatch h
  error := ⟨fun _ h => (nomatch h), fun _ => rfl⟩
  bank := fun _ _ _ => Nat.zero_le _
  nmi := fun _ h => nomatch h
  turn := Nat.zero_le _
  round := Nat.zero_le _

/-! ### A witness for the hypotheses of each statement
Each theorem gives a concrete state and operands that meet all hypotheses of the statement it names, clause by clause,
at a boundary of the range where there is one. -/

theorem witness_StepRunsSlotWord :
    (Instr.wrRam 255 0xFFFF 0xFFFFFFFF 0xFFFFFFFF 0xFF).wellFormed = true ∧
    ({ premise with slot := some (encode (.wrRam 255 0xFFFF 0xFFFFFFFF 0xFFFFFFFF 0xFF) ++ [9]) } : State).slot =
      some (encode (.wrRam 255 0xFFFF 0xFFFFFFFF 0xFFFFFFFF 0xFF) ++ [9]) ∧
    enabledIn (.wrRam 255 0xFFFF 0xFFFFFFFF 0xFFFFFFFF 0xFF) premise.phase = true ∧
    enabledIn .reset .configError = true ∧ enabledIn .configCheck .setup = true := by decide

theorem witness_StepRunsTransaction :
    let s : State := { premise with input := [some (.write 0 0 0xAB)] }
    s.slot = none ∧ s.phase = .running ∧ s.round < s.cfg.slices ∧ s.slicePos ≠ .start ∧ s.yieldReq = false ∧
      s.input = some (.write s.turn 0 0xAB) :: [] ∧ (s.cfg.cpus[s.turn]?).isSome = true ∧ (0 : Nat) < 2 ^ 16 ∧
      txnInstr s.cfg s.turn .write 0 0xAB = some (.wrRam 0 3 0 0 0xAB) := by decide

theorem witness_StepRunsTransaction_read :
    let s : State := { premise with input := [some (.read 0 0xFFFF)] }
    (0xFFFF : Nat) < 2 ^ 16 ∧ s.input = some (.read s.turn 0xFFFF) :: [] ∧
      txnInstr s.cfg s.turn .read 0xFFFF 0 = some (.rdRom 0 0 0 0x7FFF) := by decide

/-- Its clauses in order: SETUP; after the last slice; an opening with its Q line and without; an opening with no query
due (TC1-Q2, round 1); the script's end; a SLICE line; an early query. -/
theorem witness_StepRunsScheduler :
    State.reset.slot = none ∧ State.reset.phase = .setup ∧
    (let s : State := { premise with round := 4 }; s.slot = none ∧ s.phase = .running ∧ s.cfg.slices ≤ s.round) ∧
    (let s : State := { premise with slicePos := .start, input := [some (.query 0), some (.read 0 0x4400)] };
      s.slot = none ∧ s.phase = .running ∧ s.round < s.cfg.slices ∧ s.slicePos = .start ∧
      s.input = some (.query s.turn) :: [some (.read 0 0x4400)] ∧
      s.cfg.cpus[s.turn]?.map (fun cpu => s.round % cpu.queryPeriod) = some 0) ∧
    (some (.read 0 0x4400) : ScriptLine) ≠ some (.query premise.turn) := by decide

theorem witness_StepRunsScheduler_open :
    (let s : State := { premise with
        cfg := tc1Cpu 0 (fun c => { c with queryPeriod := 2 }), slicePos := .start, round := 1 };
      s.slot = none ∧ s.phase = .running ∧ s.round < s.cfg.slices ∧ s.slicePos = .start ∧
      s.cfg.cpus[s.turn]?.map (fun cpu => s.round % cpu.queryPeriod) = some 1) ∧
    (premise.slot = none ∧ premise.phase = .running ∧ premise.round < premise.cfg.slices ∧ premise.slicePos ≠ .start ∧
      premise.input = []) ∧
    (let s : State := { premise with turn := 1, slicePos := .afterTxn, input := [some (.query 1)] };
      s.yieldReq = false ∧ s.input = some (.query s.turn) :: []) := by decide

theorem witness_DecodeEncode :
    (Instr.spriteDraw ⟨0xFFFFFFFF, -0x80000000, 0xFFFFFFFF, 0xFFFFFFFF, true, true, 3, 0xFFFFFFFF⟩ true).wellFormed = true ∧
    (Instr.wrVregCtrl 255 0xFFFF 0xFF).wellFormed = true ∧ (Instr.reset).wellFormed = true := by decide

theorem witness_DecodeOnlyWords :
    decode [0x93, 5, 255, 0xFF, 0xFF, 0xFF, 9] = some (.wrVregCtrl 255 0xFFFF 0xFF, [9]) := by decide

theorem witness_TransactionWord :
    (15 : Nat) < 2 ^ 4 ∧ (0xFFFFFFFF : Nat) < 2 ^ 32 ∧ (BusEvent.write 15 0xFFFFFFFF 0xFF).wellFormed = true ∧
    decodeWord 0x1FFFFFFFFFFF = some (.write 15 0xFFFFFFFF 0xFF) ∧
    encodeWord (.write 15 0xFFFFFFFF 0xFF) = some 0x1FFFFFFFFFFF ∧ encodeWord (.query 16) = none ∧
    5 ≤ ((0x500000000000 : TxnWord).extractLsb' 44 4).toNat ∧ 5 ≤ ((0xF00000000000 : TxnWord).extractLsb' 44 4).toNat := by
  decide

/-- An open-bus read, a RAM write at the last byte of its entry; an entry of several kinds; a register block's offset that
its layout names, and one that it does not. -/
theorem witness_DecodeKey :
    lookup (Tc1.config.map 0 .read) 0x7FFF = some ⟨0x6000, 0x7FFF, .banked 0⟩ ∧
    lookup (Tc1.config.map 0 .write) 0x4050 = some ⟨0x4050, 0x4050, .irqen 0 1 1⟩ ∧
    lookup (Tc1.config.map 1 .read) 0xC001 = some ⟨0xC000, 0xC001, .sound 0⟩ ∧
    lookup (Tc1.config.map 2 .write) 0x0005 = some ⟨0x0005, 0x0005, .mcuDdr 0 .b⟩ ∧
    lookup (Tc1.config.map 0 .write) 0x4044 = some ⟨0x4040, 0x4047, .vreg 0⟩ ∧ (4, .ctrl) ∈ Tc1.vregLayout ∧
    lookup (Tc1.config.map 0 .write) 0x4047 = some ⟨0x4040, 0x4047, .vreg 0⟩ ∧ 7 ∉ Tc1.vregLayout.map (·.1) ∧
    Tc1.config.layers[0]?.map (·.vregLayout) = some Tc1.vregLayout ∧
    txnInstr Tc1.config 0 .read 0x0800 0 = some (.rdOpen 0 0x0800) ∧
    txnInstr Tc1.config 0 .write 0x07FF 1 = some (.wrRam 0 3 0 0x7FF 1) ∧
    ([0xC0, 0xFF, 0x60, 0x7F, 0x15, 0x3F, 0x95, 0xBF] : List Byte).all (fun key =>
      (0xC0 ≤ key || (0x60 ≤ key && key < 0x80)) || ((0x15 ≤ key && key < 0x40) || (0x95 ≤ key && key < 0xC0))) = true := by
  decide

theorem witness_LookupFindsTheEntry :
    lookup Tc1.read0 0x07FF = some ⟨0x0000, 0x07FF, .ram 3 0⟩ ∧ lookup Tc1.read0 0x0800 = none ∧
    checkConfig tiny = none ∧ (⟨0x20, 0x2F, .banked 0⟩ : Entry) ∈ tiny.map 0 .read ∧ (0x20 : Nat) ≤ 0x2F := by
  decide +kernel

theorem witness_OpenBus :
    (Tc1.config.cpus[2]?).isSome = true ∧
    (∀ e ∈ Tc1.config.map 0 .read, ¬(e.start ≤ 0x0800 ∧ 0x0800 ≤ e.stop)) ∧
    (∀ e ∈ Tc1.config.map 0 .write, ¬(e.start ≤ 0x8000 ∧ 0x8000 ≤ e.stop)) := by decide

theorem witness_PlainReads :
    Tc1.config.hasByte 3 (0 + 0x7FF) = true ∧ Tc1.config.hasByte 0 (0 + 0x7FFF) = true ∧
    Tc1.config.buffers[0]?.map (·.kind) = some .rom := by decide

theorem witness_WriteRam :
    premise.cfg.hasByte 4 (0x800 + 0x7FF) = true ∧ premise.cfg.isRam 4 = true ∧
    premise.cfg.layers[0]?.map (·.tileRam) = some 4 ∧ premise.cfg.layers[1]?.map (·.tileRam) ≠ some 4 := by decide

/-- WR.BANK (V9 at the last byte of the window), WR.SHARED, WR.PALETTE; a palette entry over layer 1's tile RAM, which is
not layer 0's. -/
theorem witness_WindowStores :
    (let s := (premiseOf tc1Ram).setBank 0 15;
      s.cfg.banks[0]? = some ⟨1, 0, 0x2000, 0x0F⟩ ∧ s.cfg.hasByte 1 (0 + s.bankIdx 0 * 0x2000 + 0x1FFF) = true ∧
      s.cfg.isRam 1 = true) ∧
    (premise.cfg.shared[0]?.map (·.buffer) = some 2 ∧ premise.cfg.hasByte 2 0x1FFF = true ∧ premise.cfg.isRam 2 = true) ∧
    (premise.cfg.hasByte 9 (0 + 0x7FF) = true ∧ premise.cfg.isRam 9 = true ∧
      premise.cfg.layers[1]?.map (·.tileRam) = some 9 ∧ premise.cfg.layers[0]?.map (·.tileRam) ≠ some 9) := by decide +kernel

/-- A ROM byte, through plain operands, through bank k0, and through a shared region laid over a ROM buffer. -/
theorem witness_RomIsNeverWritten :
    premise.cfg.hasByte 1 (0x1FFF0 + 0xF) = true ∧ premise.cfg.isRam 1 = false ∧
    premise.cfg.banks[0]? = some ⟨1, 0, 0x2000, 0x0F⟩ ∧
    0x1FFF0 + 0xF = 0 + (premise.setBank 0 15).bankIdx 0 * 0x2000 + 0x1FFF ∧
    ({ Tc1.config with shared := [⟨1, []⟩] } : Config).shared[0]?.map (·.buffer) = some 1 := by decide +kernel

theorem witness_OutsideABufferFaults :
    premise.cfg.hasByte 3 (0 + 0x800) = false ∧ premise.cfg.hasByte 12 (0 + 0) = false ∧
    premise.cfg.banks[0]? = some ⟨1, 0, 0x2000, 0x0F⟩ ∧
    premise.cfg.hasByte 1 (0 + (premise.setBank 0 15).bankIdx 0 * 0x2000 + 0x2000) = false ∧
    premise.cfg.shared[0]?.map (·.buffer) = some 2 ∧ premise.cfg.hasByte 2 0x2000 = false := by decide +kernel

/-- The first number past each list; a line that an existing CPU does not have. -/
theorem witness_AbsentObjectsRefused :
    premise.cfg.cpus.length ≤ 3 ∧ premise.cfg.hasType (.other 0) = false ∧ premise.cfg.banks.length ≤ 1 ∧
    premise.cfg.shared.length ≤ 1 ∧ premise.cfg.handshakes.length ≤ 1 ∧ premise.cfg.links.length ≤ 1 ∧
    premise.cfg.sounds.length ≤ 1 ∧ premise.cfg.layers.length ≤ 2 ∧ premise.cfg.sprites.count ≤ 64 ∧
    premise.cfg.cpus[0]?.map (fun cpu => cpu.polled.map (·.1)) = some [0, 1] := by decide

theorem witness_BankedRead :
    premise.cfg.banks[0]? = some ⟨1, 0, 0x2000, 0x0F⟩ ∧
    premise.cfg.hasByte 1 (0 + (premise.setBank 0 15).bankIdx 0 * 0x2000 + 0x1FFF) = true ∧
    premise.cfg.hasByte 1 (0 + ((0xFF : Byte).toNat &&& 0x0F) * 0x2000 + 0x1FFF) = true := by decide +kernel

theorem witness_BankSelect : premise.cfg.banks[0]? = some ⟨1, 0, 0x2000, 0x0F⟩ := by decide

/-- S10: cpu0 writes at its base 0x2000, cpu1 reads at its base 0x8000; the first and the last offset. -/
theorem witness_SharedMemory :
    premise.cfg.shared[0]?.map (·.buffer) = some 2 ∧ premise.cfg.hasByte 2 0x1FFF = true ∧ premise.cfg.isRam 2 = true ∧
    lookup (premise.cfg.map 0 .write) (0x2000 + 0x1FFF) = some ⟨0x2000, 0x3FFF, .shared 0⟩ ∧
    lookup (premise.cfg.map 1 .read) (0x8000 + 0x1FFF) = some ⟨0x8000, 0x9FFF, .shared 0⟩ ∧
    lookup (premise.cfg.map 1 .read) (0x8000 + 0) = some ⟨0x8000, 0x9FFF, .shared 0⟩ := by decide

theorem witness_SoundAndInput : 0 < premise.cfg.sounds.length ∧ premise.cfg.sounds[0]? = some 0 := by decide

theorem witness_InterruptEnable :
    (premise.cfg.cpus[0]?.map (·.polled)) = some [(0, .firq), (1, .irq1)] ∧
    ((1, .irq1) : Nat × IntType) ∈ [(0, IntType.firq), (1, .irq1)] := by decide

/-- Enabling with an NMI pending, enabling with none, disabling. -/
theorem witness_NmiEnable :
    (premise.cfg.cpus[1]?.map (·.nmienBit)) = some 0 ∧ (1 : Byte).getLsbD 0 = true ∧
    (premise.setNmiPending 1 true).nmiPending 1 = true ∧ premise.nmiPending 1 = false ∧ (0xFE : Byte).getLsbD 0 = false := by
  decide

theorem witness_AssertAndClear :
    premise.cfg.hasCpu 2 = true ∧ premise.cfg.hasType .irq1 = true ∧
    (premise.setAsserted 0 .irq .level).asserted 0 .irq = .level := by decide

/-- A CPU with the latch (R165) and one without it (log entry 16), each with NMIs enabled and disabled. -/
theorem witness_NmiTrigger :
    premise.cfg.cpus.map (·.nmiLatch) = [false, true, false] ∧ premise.cfg.hasCpu 1 = true ∧
    (premise.setNmiEn 1 true).nmiEn 1 = true ∧ premise.nmiEn 1 = false ∧
    premise.cfg.hasCpu 2 = true ∧ (premise.setNmiEn 2 true).nmiEn 2 = true ∧ premise.nmiEn 2 = false := by decide

/-- No candidate; and V24's state, where FIRQ (a polled line) precedes the asserted IRQ, or, early, IRQ alone. -/
theorem witness_Query :
    (premise.cfg.cpus[0]?.map (·.polled)) = some [(0, .firq), (1, .irq1)] ∧
    (∀ ty ∈ premise.cfg.intPriority, premise.asserted 0 ty = .none) ∧
    (premise.irqEn 0 0 = false ∧ premise.irqEn 0 1 = false) ∧
    (let s := (premise.setAsserted 0 .irq .level).setIrqEn 0 0 true;
      s.cfg.intPriority = [IntType.nmi, .firq, .irq, .irq1] ∧ s.asserted 0 .nmi = .none ∧ s.irqEn 0 0 = true ∧
      s.asserted 0 .firq = .none ∧ s.asserted 0 .irq ≠ .none) := by decide

theorem witness_PendingNmi :
    premise.cfg.cpus[1]? = some ⟨.z80, 16, .highFirst, 0xFF, Tc1.read1, Tc1.write1, 1, [], true, 0⟩ ∧
    premise.cfg.intPriority = .nmi :: [.firq, .irq, .irq1] ∧ (∀ line : Nat, (line, IntType.nmi) ∉ ([] : List (Nat × IntType))) ∧
    premise.nmiEn 1 = false ∧ premise.nmiPending 1 = false ∧ premise.asserted 1 .nmi = .none ∧ (1 : Byte).getLsbD 0 = true :=
  ⟨by decide, rfl, fun _ h => (nomatch h), by decide⟩

/-- The three effects of a command write, the third with NMIs disabled and enabled. -/
theorem witness_WriteCommand :
    (tc1Hs fun h => { h with cmdEffect := .none }).handshakes = [{ Tc1.handshake0 with cmdEffect := .none }] ∧
    (tc1Hs fun h => { h with cmdEffect := .assert ⟨1, .irq, .level⟩ }).handshakes =
      [{ Tc1.handshake0 with cmdEffect := .assert ⟨1, .irq, .level⟩ }] ∧
    premise.cfg.handshakes[0]? = some Tc1.handshake0 ∧ Tc1.handshake0.cmdEffect = .nmiTrigger 1 ∧ premise.nmiEn 1 = false ∧
    (premise.setNmiEn 1 true).nmiEn 1 = true := by decide

theorem witness_ReadCommand :
    (premise.cfg.handshakes[0]?.map (·.cmdReadClear)) = some none ∧
    ((premiseOf (tc1Hs fun h => { h with cmdReadClear := some ⟨1, .irq⟩ })).cfg.handshakes[0]?.map (·.cmdReadClear)) =
      some (some ⟨1, .irq⟩) := by decide

theorem witness_ResultByte : 0 < premise.cfg.handshakes.length := by decide

theorem witness_HandshakeStatus :
    ((premiseOf (tc1Hs fun h => { h with invertMask := 0x03 })).cfg.handshakes[0]?.map (·.invertMask)) = some 0x03 := by
  decide

theorem witness_Yield : premise.cfg.hasCpu 2 = true := by decide

theorem witness_HandshakeRoundTrip : 0 < premise.cfg.handshakes.length := by decide

/-- With and without `MAIN_WRITE_ASSERT`; the status bits of TC1. -/
theorem witness_McuData :
    premise.cfg.links[0]? = some Tc1.link0 ∧ Tc1.link0.mainWriteAssert = none ∧
    ({ Tc1.config with links := [{ Tc1.link0 with mainWriteAssert := some ⟨2, .irq, .pulse⟩ }] } : Config).links[0]?.map
      (·.mainWriteAssert) = some (some ⟨2, .irq, .pulse⟩) ∧
    Tc1.link0.statusReadyBit < 8 ∧ Tc1.link0.statusResultBit < 8 ∧
    Tc1.link0.statusReadyBit ≠ Tc1.link0.statusResultBit := by decide

theorem witness_WriteDdr : 0 < premise.cfg.links.length := by decide

/-- Both edges in one write: V48. -/
theorem witness_WritePort :
    premise.cfg.links[0]? = some Tc1.link0 ∧
    Tc1.link0.triggers.filter (·.fires 0x02 0x04) = Tc1.link0.triggers ∧
    Tc1.link0.triggers.filter (·.fires 0x04 0x04) = [] := by decide

theorem witness_ReadPort : 0 < premise.cfg.links.length := by decide

theorem witness_PortActions :
    premise.cfg.links[0]? = some Tc1.link0 ∧ Tc1.link0.sendAssert = some ⟨0, .irq, .level⟩ ∧
    ({ Tc1.config with links := [{ Tc1.link0 with sendAssert := none }] } : Config).links[0]?.map (·.sendAssert) =
      some none := by decide

theorem witness_DdrProperty : premise.cfg.links[0]? = some Tc1.link0 := by decide

/-- Layer 0 carries an enable bit, layer 1 none. -/
theorem witness_VideoRegisters :
    premise.cfg.layers[0]?.map (·.vctrlIrq) = some (some ⟨0, 0, 1⟩) ∧
    premise.cfg.layers[1]?.map (·.vctrlIrq) = some none := by decide

/-- Offset 4 names CTRL and nothing else; offset 5 names nothing. -/
theorem witness_VideoRegisterBlock :
    premise.cfg.layers[1]?.map (·.vregLayout) = some Tc1.vregLayout ∧ (4, .ctrl) ∈ Tc1.vregLayout ∧
    (∀ f' ∈ [VregField.scrollxLo, .scrollxHi, .scrolly, .bank, .ctrl], (4, f') ∈ Tc1.vregLayout → f' = .ctrl) ∧
    (∀ f ∈ [VregField.scrollxLo, .scrollxHi, .scrolly, .bank, .ctrl], (5, f) ∉ Tc1.vregLayout) := by decide

theorem witness_TileResolve : premise.cfg.layers[1]? = some Tc1.layer1 := by decide

/-- A layer of each scroll width, and the last pixel of the screen. -/
theorem witness_LayerDraw :
    premise.cfg.layers[0]? = some Tc1.layer0 ∧ Tc1.layer0.scrollxBits = 9 ∧ premise.cfg.layers[1]? = some Tc1.layer1 ∧
    Tc1.layer1.scrollxBits ≠ 9 ∧ 255 < premise.cfg.screenW ∧ 223 < premise.cfg.screenH := by decide

/-- The last entry; a skipped one and one that is not; both X modes. -/
theorem witness_SpriteDecode :
    63 < premise.cfg.sprites.count ∧ premise.cfg.xExtMode = .ninthBit ∧
    (premiseOf { Tc1.config with xExtMode := .sign }).cfg.xExtMode = .sign ∧
    premise.cfg.sprites.offscreenY = some ((poke premise [(5, 315, 0xF8)]).memRead 5 (0 + 63 * 5 + 0)).toNat ∧
    premise.cfg.sprites.offscreenY ≠ some (premise.memRead 5 (0 + 63 * 5 + 0)).toNat := by decide +kernel

/-- A 32×32 sprite at (0x10, 0x20): its last pixel (47, 63) and the pixel after it. -/
theorem witness_SpriteDraw :
    47 < premise.cfg.screenW ∧ 63 < premise.cfg.screenH ∧ (47 : Int) = 0x10 + (31 : Nat) ∧ (63 : Int) = 0x20 + (31 : Nat) ∧
    31 < 16 * 2 ∧ ¬((0x10 : Int) ≤ 48 ∧ (48 : Int) < 0x10 + 16 * 2) ∧ 48 < premise.cfg.screenW := by decide

theorem witness_FrameOutput : 255 < premise.cfg.screenW ∧ 223 < premise.cfg.screenH := by decide

theorem witness_ComposeOrder : ∀ l ∈ [0, 1], DrawItem.layer l ∈ premise.cfg.drawOrder → l < premise.cfg.layers.length := by
  decide

/-- A machine in SETUP whose configuration passes, one whose configuration fails, one running, one in CONFIG_ERROR. -/
theorem witness_ConfigCheck :
    ({ tinyRun with phase := .setup } : State).phase = .setup ∧ checkConfig tiny = none ∧
    checkConfig { tiny with slices := 0 } = some ⟨.param, .param .slices⟩ ∧ tinyRun.phase = .running ∧
    ({ tinyRun with phase := .configError } : State).phase = .configError := by decide +kernel

theorem witness_CheckedConfiguration :
    checkConfig tiny = none ∧ (tiny.cpus[0]?).isSome = true ∧ (⟨0x40, 0x5F, .shared 0⟩ : Entry) ∈ tiny.map 0 .write ∧
    (⟨0x20, 0x2F, .banked 0⟩ : Entry) ∈ tiny.map 0 .read ∧ tiny.banks[0]? = some ⟨1, 0, 16, 1⟩ ∧ 1 ≤ 1 ∧ 15 < 16 := by
  decide +kernel

/-- The middle of a round and its end; an opening with its Q line and without; a transaction; an early query; a line after
a yield, a FRAME line, a word of no kind and another CPU's line; after the last slice; the other phases. -/
theorem witness_Slice :
    (premise.phase = .running ∧ premise.round < premise.cfg.slices ∧ premise.turn < premise.cfg.cpus.length ∧
      premise.slicePos ≠ .start ∧ premise.input = []) ∧
    (let s : State := { premise with turn := 2, round := 3, input := [some .slice, none] };
      s.round < s.cfg.slices ∧ s.turn < s.cfg.cpus.length ∧ s.turn + 1 = s.cfg.cpus.length ∧
      s.input = some .slice :: [none]) ∧
    (let s : State := { premise with slicePos := .start }; s.slicePos = .start ∧ s.input = [] ∧
      s.cfg.cpus[s.turn]?.map (fun cpu => s.round % cpu.queryPeriod) = some 0) ∧
    (let s : State := { premise with slicePos := .start, input := [some (.query 0), none] };
      s.input = some (.query s.turn) :: [none]) ∧
    (let s : State := { premise with input := [some (.write 0 0 0xAB)] };
      s.slicePos ≠ .start ∧ s.yieldReq = false ∧ (s.cfg.cpus[s.turn]?.map (·.addrBits)) = some 16 ∧
      s.input = some (.write s.turn 0 0xAB) :: [] ∧
      txnInstr s.cfg s.turn .write 0 0xAB = some (.wrRam 0 3 0 0 0xAB)) ∧
    (let s : State := { premise with slicePos := .afterTxn, input := [some (.query 0)] };
      s.yieldReq = false ∧ s.input = some (.query s.turn) :: []) ∧
    ((some .frame : ScriptLine) ≠ some .slice ∧ decodeWord 0x500000000000 = none ∧
      decodeWord 0x010000C00000 = some (.read 1 0xC000) ∧ 1 ≠ premise.turn) ∧
    (let s : State := { premise with round := 4 }; s.phase = .running ∧ s.cfg.slices ≤ s.round) ∧
    State.reset.phase = .setup := by decide

theorem witness_SliceCompletes :
    let s : State := { tinyRun with input := [some (.read 0 0xFF), some (.write 0 0x30 1)] ++ some .slice :: [none] }
    s.Inv ∧ s.phase = .running ∧ s.round < s.cfg.slices ∧ s.slicePos ≠ .start ∧ s.yieldReq = false ∧
      (∀ hc ∈ s.cfg.handshakes, hc.syncDelivery = false) ∧
      (∀ w ∈ [(some (.read 0 0xFF) : ScriptLine), some (.write 0 0x30 1)], s.presents w = true) :=
  ⟨tinyRun_inv _ _, rfl, by decide, by decide, rfl, by decide, by simp; decide⟩

/-- Before, inside and after the frame's slices, the rest of a frame scripted, and the other phases. -/
theorem witness_Frame :
    (State.Inv { tinyRun with slicePos := .start } ∧ tinyRun.phase = .running ∧ tinyRun.round < tinyRun.cfg.slices ∧
      tinyRun.input = []) ∧
    (let s : State := { premise with round := 4, input := some .frame :: [none] };
      s.phase = .running ∧ s.cfg.slices ≤ s.round ∧ s.input = some .frame :: [none]) ∧
    (some .slice : ScriptLine) ≠ some .frame ∧ State.reset.phase = .setup ∧
    (let slices : List (List ScriptLine) := [[some (.read 0 0xFF), some (.write 0 0x30 1)]]
      let s : State := { tinyRun with
        slicePos := .start, input := slices.flatMap (fun ws => ws ++ [some .slice]) ++ some .frame :: [none] }
      s.Inv ∧ s.yieldReq = false ∧ (∀ hc ∈ s.cfg.handshakes, hc.syncDelivery = false) ∧
        slices.length + s.turn = (s.cfg.slices - s.round) * s.cfg.cpus.length ∧
        slices[0]? = some [some (.read 0 0xFF), some (.write 0 0x30 1)] ∧
        s.presents (some (.read 0 0xFF)) = true ∧ s.presents (some (.write 0 0x30 1)) = true) :=
  ⟨⟨tinyRun_inv [] .start, by decide⟩, by decide, by decide, by decide, tinyRun_inv _ _, by decide⟩

theorem witness_Reset : premise.cfg.buffers[0]?.map (·.size) = some 0x8000 ∧ 0x7FFF < 0x8000 := by decide

theorem witness_StepKeepsInvariant :
    State.Inv { tinyRun with input := [some (.write 0 0x30 1)] } ∧
    see (step { tinyRun with input := [some (.write 0 0x30 1)] }) (·.bankIdx 0) = some 1 :=
  ⟨tinyRun_inv _ _, by decide +kernel⟩

theorem witness_TransactionsComplete :
    let s : State := { tinyRun with input := [some (.read 0 0xFF)] }
    s.Inv ∧ s.slot = none ∧ s.phase = .running ∧ s.round < s.cfg.slices ∧ s.slicePos ≠ .start ∧ s.yieldReq = false ∧
      s.input = some (.read 0 0xFF) :: [] ∧ s.presents (some (.read 0 0xFF)) = true :=
  ⟨tinyRun_inv _ _, by decide⟩

/-- A running machine, one that is refused for its script, and one in CONFIG_ERROR. -/
theorem witness_NoFaultNoStuckState :
    (tinyRun.Inv ∧ tinyRun.slot = none ∧ tinyRun.phase = .running ∧ tinyRun.input = []) ∧
    (State.Inv { tinyRun with input := [some .frame] } ∧
      refusal (step { tinyRun with input := [some .frame] }) = some .scriptInvalid) ∧
    (let s : State := { tinyRun with phase := .configError, error := some ⟨.bank, .bank 0⟩ };
      s.Inv ∧ s.slot = none ∧ s.phase = .configError) :=
  ⟨⟨tinyRun_inv [] .ready, by decide⟩, ⟨tinyRun_inv _ _, by decide +kernel⟩, tinyError_inv, by decide⟩

/-- A step, and an operation that changes each part the statement names. -/
theorem witness_WhoWritesWhat :
    (see (step premise) (·.turn)).isSome = true ∧ (see (exec .reset premise) (·.phase)) = some .setup ∧
    see (exec (.wrRam 0 3 0 0 1) premise) (·.memRead 3 0) ≠ some (premise.memRead 3 0) ∧
    see (exec (.wrBanksel 0 0 1) premise) (·.bankIdx 0) ≠ some (premise.bankIdx 0) ∧
    see (exec (.layerDraw 0 false) tinyRun) (·.fb) ≠ some tinyRun.fb ∧
    see (exec .compose tinyRun) (fun t => t.out.isSome) ≠ some tinyRun.out.isSome ∧
    see (exec (.wrIrqen 0 0 1 1 2) premise) (·.irqEn 0 1) ≠ some (premise.irqEn 0 1) ∧
    see (exec (.intAssert 0 .irq .level) premise) (·.asserted 0 .irq) ≠ some (premise.asserted 0 .irq) ∧
    see (exec (.wrNmien 1 1 1) premise) (·.nmiEn 1) ≠ some (premise.nmiEn 1) ∧
    see (exec (.nmiTrigger 1) premise) (·.nmiPending 1) ≠ some (premise.nmiPending 1) ∧
    see (exec (.wrHsRes 1 0 9) premise) (·.hsOf 0) ≠ some (premise.hsOf 0) ∧
    see (exec (.wrMcuData 0 0 9) premise) (·.linkOf 0) ≠ some (premise.linkOf 0) ∧
    see (exec (.wrVregScrolly 0 0 9) premise) (·.vregOf 0) ≠ some (premise.vregOf 0) ∧
    see (exec (.hsYield 0) premise) (·.yieldReq) ≠ some premise.yieldReq ∧
    see (exec (.wrRam 0 9 0 0 1) (premise.setDirty 1 false)) (·.dirtyOf 1) ≠ some false ∧
    see (exec .schedFrame tinyRun) (·.frame) ≠ some tinyRun.frame := by decide +kernel

/-- A configuration that fails, at a visited object, and one that passes. -/
theorem witness_CheckReports :
    checkConfig { tiny with slices := 0 } = some ⟨.param, (CheckObject.param .slices).reported⟩ ∧
    (CheckCode.param, CheckObject.param .slices) ∈ checkVisits { tiny with slices := 0 } ∧ checkConfig tiny = none := by
  decide +kernel

/-- A configuration that passes, whose run ends, and one that fails. -/
theorem witness_RunOfFrames :
    checkConfig tiny = none ∧ (see (run tiny [some (.read 0 0xFF), some .slice, some .frame] 1) id).isSome = true ∧
    checkConfig { tiny with slices := 0 } = some ⟨.param, .param .slices⟩ := by decide +kernel

end Sys2Proof.Tests
end

section
/-! PROOFS. The step that runs an operation word: the decoder takes back the word that the encoder wrote (log entry 4),
and the slot's word is the operation that runs. -/

namespace Sys2Proof

theorem get8_cons {α : Type} (b : Byte) (bs : List Byte) (k : Nat → List Byte → Option α) :
    get8 (b :: bs) k = k b.toNat bs := rfl

/-- Each key's chain of readers meets the operand bytes in the order in which its writers put them down, so the readers'
laws (Laws/Decode.lean) take them off one after the other. The six WR.VREG rows also read their field byte (R103). -/
theorem decodeKeyed_operands {i : Instr} (h : i.wellFormed = true) (rest : List Byte) :
    decodeKeyed i.key.toNat (i.operands ++ rest) = some (i, rest) := by
  cases i <;>
    simp only [Instr.wellFormed, Bool.and_eq_true] at h <;>
    simp only [Instr.key, Instr.operands, decodeKeyed, getVreg, BitVec.reduceToNat, List.append_assoc, List.cons_append,
      List.nil_append, get8_cons, getByte_cons, get8_enc8, get16_enc16, get32_enc32, getBit_enc8, getBool_encBool,
      getMode_encMode, getPort_encPort, getSprite_encSprite, IntType.ofCode_code, h]

theorem decode_encode_append {i : Instr} (h : i.wellFormed = true) (rest : List Byte) :
    decode (encode i ++ rest) = some (i, rest) := decodeKeyed_operands h rest

end Sys2Proof

namespace Sys2Proof.Machine

theorem runSlot_of_decode {s : State} {bytes rest : List Byte} {i : Instr} (hd : decode bytes = some (i, rest))
    (he : enabledIn i s.phase = true) : runSlot bytes s = exec i s := by
  simp only [runSlot, hd, he, if_true]

theorem step_of_slot {s : State} {bytes : List Byte} (h : s.slot = some bytes) :
    step s = runSlot bytes { s with slot := none } := by
  simp only [step, stepBlock, h]

/-- Settles O1. -/
theorem stepRunsSlotWord : Obligations.StepRunsSlotWord := by
  intro s i rest hwf hslot hen
  calc step s = runSlot (encode i ++ rest) { s with slot := none } := step_of_slot hslot
    _ = exec i { s with slot := none } := runSlot_of_decode (decode_encode_append hwf rest) hen

end Sys2Proof.Machine
end

section
/-! PROOFS. The memory operations (R125 to R134, R238, R239): one equation per operation with the byte that its operands
name, and the fault where that byte does not exist (R9, log entry 8). -/

namespace Sys2Proof.Machine

/-! ### The byte that a memory operation reads or writes -/

theorem exec_rdRam (s : State) (c b o off : Nat) : exec (.rdRam c b o off) s =
    Outcome.whenByte (s.cfg.hasByte b (o + off)) (s.emit (.read c (s.memRead b (o + off)))) := rfl

theorem exec_wrRam (s : State) (c b o off : Nat) (d : Byte) : exec (.wrRam c b o off d) s =
    Outcome.whenByte (s.cfg.hasByte b (o + off)) (s.storeByte b (o + off) d) := rfl

theorem exec_rdRom (s : State) (c b o off : Nat) : exec (.rdRom c b o off) s =
    Outcome.whenByte (s.cfg.hasByte b (o + off)) (s.emit (.read c (s.memRead b (o + off)))) := rfl

theorem exec_rdPalette (s : State) (c b o off : Nat) : exec (.rdPalette c b o off) s =
    Outcome.whenByte (s.cfg.hasByte b (o + off)) (s.emit (.read c (s.memRead b (o + off)))) := rfl

theorem exec_wrPalette (s : State) (c b o off : Nat) (d : Byte) : exec (.wrPalette c b o off d) s =
    Outcome.whenByte (s.cfg.hasByte b (o + off)) (s.storeByte b (o + off) d) := rfl

theorem exec_rdBank {s : State} {k : Nat} {bank : BankCfg} (h : s.cfg.banks[k]? = some bank) (c off : Nat) :
    exec (.rdBank c k off) s =
      Outcome.whenByte (s.cfg.hasByte bank.region (bank.offset (s.bankIdx k) off))
        (s.emit (.read c (s.memRead bank.region (bank.offset (s.bankIdx k) off)))) := by
  simp only [exec, execRdBank, h]

theorem exec_wrBank {s : State} {k : Nat} {bank : BankCfg} (h : s.cfg.banks[k]? = some bank) (c off : Nat) (d : Byte) :
    exec (.wrBank c k off d) s =
      Outcome.whenByte (s.cfg.hasByte bank.region (bank.offset (s.bankIdx k) off))
        (s.storeByte bank.region (bank.offset (s.bankIdx k) off) d) := by
  simp only [exec, execWrBank, h]

theorem exec_rdShared {s : State} {r : Nat} {region : SharedCfg} (h : s.cfg.shared[r]? = some region) (c off : Nat) :
    exec (.rdShared c r off) s =
      Outcome.whenByte (s.cfg.hasByte region.buffer off) (s.emit (.read c (s.memRead region.buffer off))) := by
  simp only [exec, execRdShared, h]

theorem exec_wrShared {s : State} {r : Nat} {region : SharedCfg} (h : s.cfg.shared[r]? = some region) (c off : Nat)
    (d : Byte) : exec (.wrShared c r off d) s =
      Outcome.whenByte (s.cfg.hasByte region.buffer off) (s.storeByte region.buffer off d) := by
  simp only [exec, execWrShared, h]

/-! ### The fault outside a buffer -/

theorem Outcome.whenByte_of_eq_false {ok : Bool} (h : ok = false) (t : State) :
    Outcome.whenByte ok t = .fault .noSuchByte := by
  rw [h]; rfl

/-- Settles O15: each operation answers through the test for the byte that its operands name. -/
theorem outsideABufferFaults : Obligations.OutsideABufferFaults := by
  refine ⟨fun s c b o off d hb i hi => ?plain, fun s c k off d bank hk hb => ?bank,
    fun s c r off d region hr hb => ?shared⟩
  case plain =>
    simp only [List.mem_cons, List.not_mem_nil, or_false] at hi
    obtain rfl | rfl | rfl | rfl | rfl := hi
    · rw [exec_rdRam, Outcome.whenByte_of_eq_false hb]
    · rw [exec_wrRam, Outcome.whenByte_of_eq_false hb]
    · rw [exec_rdRom, Outcome.whenByte_of_eq_false hb]
    · rw [exec_rdPalette, Outcome.whenByte_of_eq_false hb]
    · rw [exec_wrPalette, Outcome.whenByte_of_eq_false hb]
  case bank =>
    rw [exec_rdBank hk, exec_wrBank hk]
    exact ⟨Outcome.whenByte_of_eq_false hb _, Outcome.whenByte_of_eq_false hb _⟩
  case shared =>
    rw [exec_rdShared hr, exec_wrShared hr]
    exact ⟨Outcome.whenByte_of_eq_false hb _, Outcome.whenByte_of_eq_false hb _⟩

end Sys2Proof.Machine
end

section
/-! PROOFS. The invariant (R24, R35, R162, R300, R305): what a step can do, said once, and that each operation
keeps it. -/

namespace Sys2Proof.Machine

/-! ### The invariant and its parts -/

theorem State.Inv.consistent {s : State} (h : s.Inv) : s.Consistent := ⟨h.wf, h.bank, h.nmi⟩

/-- What an operation that does not move the phase has to show: the registers stay consistent and the scheduler position
stays in its ranges. -/
theorem State.Inv.of_samePhase {s t : State} (h : s.Inv) (good : s.Consistent → t.Consistent) (hcfg : t.cfg = s.cfg)
    (hphase : t.phase = s.phase) (herror : t.error = s.error) (hturn : t.turn ≤ s.cfg.cpus.length - 1)
    (hround : t.round ≤ s.cfg.slices) : t.Inv where
  wf := (good h.consistent).wf
  checked := by rw [hphase, hcfg]; exact h.checked
  error := by rw [hphase, herror]; exact h.error
  bank := (good h.consistent).bank
  nmi := (good h.consistent).nmi
  turn := hcfg ▸ hturn
  round := hcfg ▸ hround

theorem SameTurn.inv {s t : State} (e : SameTurn s t) (h : s.Inv) : t.Inv :=
  h.of_samePhase e.good e.cfg e.phase e.error (e.turn ▸ h.turn) (e.round ▸ h.round)

/-- The slot is outside the invariant. -/
theorem State.Inv.emptySlot {s : State} (h : s.Inv) : State.Inv { s with slot := none } :=
  h.of_samePhase (fun g => ⟨g.wf, g.bank, g.nmi⟩) rfl rfl rfl h.turn h.round

/-! ### RESET and CONFIG.CHECK -/

/-- RESET lists no register and leaves SETUP without an error (R330). -/
theorem State.resetBlock_inv (s : State) : s.resetBlock.Inv where
  wf := rfl
  checked := nofun
  error := ⟨nofun, fun h => absurd rfl h⟩
  bank := fun _ _ _ => Nat.zero_le _
  nmi := fun _ _ => rfl
  turn := Nat.zero_le _
  round := Nat.zero_le _

/-- Settles O54. -/
theorem resetMeetsInvariant : Obligations.ResetMeetsInvariant := State.resetBlock_inv State.reset

/-- The phase follows the check's answer, and the error is recorded with CONFIG_ERROR alone (R300, R305). -/
theorem State.checked_inv {s : State} (h : s.Inv) (hp : s.phase = .setup) : s.checked.Inv := by
  have noError : s.error = none := by
    by_contra he
    rw [h.error.2 he] at hp
    cases hp
  unfold State.checked
  split
  · next hc => exact ⟨h.wf, fun _ => hc, by simp [noError], h.bank, h.nmi, h.turn, h.round⟩
  · exact ⟨h.wf, nofun, by simp, h.bank, h.nmi, h.turn, h.round⟩

theorem execConfigCheck_eq_next {s t : State} (h : execConfigCheck s = .next t) : s.phase = .setup ∧ t = s.checked := by
  unfold execConfigCheck at h
  split at h <;> cases h
  exact ⟨‹_›, rfl⟩

/-! ### Drawing and composing -/

theorem State.Consistent.withFb {s : State} (h : s.Consistent) (fb : List (List Nat)) :
    State.Consistent { s with fb := fb } := ⟨h.wf, h.bank, h.nmi⟩

/-- A composition clears flags and shows a frame; the registers stay consistent (R252). -/
theorem State.composed_consistent {s : State} (h : s.Consistent) : s.composed.Consistent := by
  obtain ⟨fb, hfb⟩ := s.drawFrame_shape
  have cleared : (s.drawFrame.setDirtyAll (List.range s.cfg.layers.length) false).Consistent :=
    (Kept.setDirtyAll ..).1 (hfb ▸ h.withFb fb)
  exact ⟨cleared.wf, cleared.bank, cleared.nmi⟩

/-! ### The scheduler -/

theorem execSchedSlice_eq_next {s t : State} (h : execSchedSlice s = .next t) :
    s.round < s.cfg.slices ∧ SliceEffect s t := by
  unfold execSchedSlice at h
  split at h
  · split at h
    · exact ⟨‹_›, State.runSlice_effect h⟩
    · cases h
  · cases h

/-- The turn passes on within `N_CPU`, and a round is counted only below `SLICES` (R35, R311). -/
theorem SliceEffect.inv {s t : State} (e : SliceEffect s t) (hr : s.round < s.cfg.slices) (h : s.Inv) : t.Inv := by
  refine h.of_samePhase e.good e.cfg e.phase e.error ?_ ?_
  · have := e.adv; omega
  · have := e.adv; omega

/-- A frame is its slices, then a composition, the frame count and round 0 (R310). -/
theorem execSchedFrame_eq_next {s t : State} (h : execSchedFrame s = .next t) :
    ∃ u rest, RoundsEffect s u ∧ t = u.endFrame rest := by
  unfold execSchedFrame at h
  split at h
  · split at h
    · next u hu =>
      split at h
      · next rest _ => cases h; exact ⟨u, rest, sliceRounds_effect _ _ _ hu, rfl⟩
      · cases h
    · cases h
    · cases h
  · cases h

theorem State.endFrame_shape (s : State) (rest : List ScriptLine) : ∃ fb d out,
    s.endFrame rest = { s with
      fb := fb, dirty := d, out := some out, trace := .frame out :: s.trace
      frame := s.frame + 1, round := 0, input := rest } := by
  obtain ⟨fb, d, out, h⟩ := s.composed_shape
  exact ⟨fb, d, out, by rw [State.endFrame, h]⟩

theorem State.endFrame_consistent {s : State} (rest : List ScriptLine) (h : s.Consistent) :
    (s.endFrame rest).Consistent := by
  obtain ⟨wf, bank, nmi⟩ := composed_consistent h
  exact ⟨wf, bank, nmi⟩

theorem execSchedFrame_inv {s t : State} (h : s.Inv) (ht : execSchedFrame s = .next t) : t.Inv := by
  obtain ⟨u, rest, e, rfl⟩ := execSchedFrame_eq_next ht
  obtain ⟨fb, d, out, he⟩ := u.endFrame_shape rest
  refine h.of_samePhase (State.endFrame_consistent rest ∘ e.good) ?cfg ?phase ?error ?turn ?round
  case cfg => rw [he]; exact e.cfg
  case phase => rw [he]; exact e.phase
  case error => rw [he]; exact e.error
  case turn => rw [he]; exact e.turn h.turn
  case round => rw [he]; exact Nat.zero_le _

/-! ### One operation, one step -/

/-- Every operation keeps the invariant: a transaction and the small internal operations touch registers alone, drawing
touches the frame buffer, and the scheduler, RESET and CONFIG.CHECK move the phase and the position as R300, R310, R311
and R330 say. -/
theorem exec_inv {i : Instr} {s t : State} (h : s.Inv) (ht : exec i s = .next t) : t.Inv := by
  by_cases tx : isTransaction i = true
  · exact (performTxn_kept i s t ((performTxn_eq_exec i s tx).trans ht)).sameTurn.inv h
  cases i with
  | intQuery => cases Outcome.eq_of_whenObject ht; exact (Kept.query ..).sameTurn.inv h
  | intAssert => cases Outcome.eq_of_whenObject ht; exact (Kept.assertLine ..).sameTurn.inv h
  | intClear => cases Outcome.eq_of_whenObject ht; exact (Kept.clearLine ..).sameTurn.inv h
  | nmiTrigger => cases Outcome.eq_of_whenObject ht; exact (Kept.triggerNmi ..).sameTurn.inv h
  | actLatchFromMain => cases Outcome.eq_of_whenObject ht; exact (Kept.latch ..).sameTurn.inv h
  | actSendToMain => cases Outcome.eq_of_whenObject ht; exact (Kept.send ..).sameTurn.inv h
  | hsYield => cases Outcome.eq_of_whenObject ht; exact (Kept.yield ..).sameTurn.inv h
  | schedSlice => obtain ⟨hr, e⟩ := execSchedSlice_eq_next ht; exact e.inv hr h
  | schedFrame => exact execSchedFrame_inv h ht
  | compose =>
    cases ht
    obtain ⟨fb, d, out, he⟩ := s.composed_shape
    refine h.of_samePhase State.composed_consistent ?_ ?_ ?_ ?_ ?_ <;> rw [he]
    · exact h.turn
    · exact h.round
  | tileResolve l cell =>
    simp only [exec, execTileResolve] at ht
    split at ht <;> cases ht
    exact (Kept.emit ..).sameTurn.inv h
  | layerDraw l fs =>
    cases Outcome.eq_of_whenObject ht
    obtain ⟨fb, he⟩ := s.drawLayer_shape l fs
    rw [he]
    exact h.of_samePhase (·.withFb fb) rfl rfl rfl h.turn h.round
  | spriteDecode => cases Outcome.eq_of_whenObject ht; exact (Kept.emit ..).sameTurn.inv h
  | spriteDraw => cases ht; exact h.of_samePhase (·.withFb _) rfl rfl rfl h.turn h.round
  | paletteResolve => cases ht; exact (Kept.emit ..).sameTurn.inv h
  | reset => cases ht; exact s.resetBlock_inv
  | configCheck => obtain ⟨hp, rfl⟩ := execConfigCheck_eq_next ht; exact State.checked_inv h hp
  | _ => exact absurd rfl tx

theorem stepOpen_sameTurn {s t : State} (h : stepOpen s = .next t) : SameTurn s t := by
  have opened : SameTurn s s.opened := SameTurn.moved s .ready _
  unfold stepOpen at h
  split at h
  · cases Outcome.eq_of_whenObject h; exact opened.trans (Kept.query ..).sameTurn
  · cases h; exact opened

/-- What a step can do, once the slot is empty: one operation, or an event of the slice that stays within the turn. -/
theorem step_eq_next {s t : State} (h : step s = .next t) :
    (∃ i, exec i { s with slot := none } = .next t) ∨ SameTurn { s with slot := none } t := by
  unfold step stepBlock at h
  split at h
  · unfold runSlot at h
    split at h
    · split at h
      · exact .inl ⟨_, h⟩
      · cases h
    · cases h
  · next hs =>
    have same : { s with slot := none } = s := by cases s; cases hs; rfl
    rw [same]
    split at h
    · exact .inl ⟨_, h⟩
    · cases h
    · unfold stepRunning at h
      split at h
      · exact .inl ⟨_, h⟩
      · split at h
        · exact .inr (stepOpen_sameTurn h)
        · split at h
          · split at h
            · exact .inl ⟨_, h⟩
            · exact .inr (State.midSlice_sameTurn h)
          · exact .inl ⟨_, h⟩

/-- Settles O55. -/
theorem stepKeepsInvariant : Obligations.StepKeepsInvariant := by
  intro s t h ht
  obtain ⟨i, hi⟩ | e := step_eq_next ht
  · exact exec_inv h.emptySlot hi
  · exact e.inv h.emptySlot

end Sys2Proof.Machine
end

section
/-! PROOFS. Who writes what (R20 to R38, R42, R301): the parts of the state that each operation may change, and read the
other way the operations that write each part. -/

namespace Sys2Proof.Machine

theorem Part.same_refl (s : State) (p : Part) : Part.same s s p := Unchanged.refl (ps := []) p nofun

/-! ### The parts that each operation may change -/

/-- The parts that the transactions and queries of a slice, and its end, may change (R311). -/
def sliceParts : List Part :=
  [.mem, .bank, .irqEn, .asserted, .nmiEn, .nmiPending, .hs, .link, .vreg, .dirty, .round, .turn, .yieldReq, .slicePos,
   .draws, .input, .trace]

/-- The registers of the block and its position, which RESET writes (R330; log entry 13). -/
def resetParts : List Part :=
  [.mem, .bank, .irqEn, .asserted, .nmiEn, .nmiPending, .hs, .link, .vreg, .dirty, .frame, .round, .turn, .phase,
   .yieldReq, .fb, .out, .error, .slicePos]

/-- The parts that an operation may change: `txnParts` with the internal operations beside it. -/
def execParts : Instr → List Part
  | .intQuery .. => [.asserted, .trace]
  | .intAssert .. => [.asserted]
  | .intClear .. => [.asserted]
  | .nmiTrigger .. => [.asserted, .nmiPending]
  | .actLatchFromMain .. => [.link, .asserted]
  | .actSendToMain .. => [.link, .asserted]
  | .hsYield .. => [.yieldReq]
  | .schedSlice => sliceParts
  | .schedFrame => [.frame, .fb, .out] ++ sliceParts
  | .compose => [.fb, .dirty, .out, .trace]
  | .tileResolve .. => [.trace]
  | .layerDraw .. => [.fb]
  | .spriteDecode .. => [.trace]
  | .spriteDraw .. => [.fb]
  | .paletteResolve => [.trace]
  | .reset => resetParts
  | .configCheck => [.phase, .error]
  | i => txnParts i

theorem execParts_of_isTransaction {i : Instr} (h : isTransaction i = true) : execParts i = txnParts i := by
  cases i <;> first | rfl | cases h

/-! ### The internal operations
A part that reads only fields which an update keeps is what it was by computation. -/

theorem State.unchanged_withFb {s : State} {fb : List (List Nat)} : Unchanged s { s with fb := fb } [.fb] := by
  intro p hp
  have same := Part.same_refl s p
  cases p with
  | fb => exact absurd (by decide) hp
  | _ => exact same

theorem State.unchanged_drawLayer {s : State} {l : Nat} {fs : Bool} : Unchanged s (s.drawLayer l fs) [.fb] := by
  obtain ⟨fb, h⟩ := s.drawLayer_shape l fs
  exact h ▸ unchanged_withFb

theorem State.unchanged_composed {s : State} : Unchanged s s.composed [.fb, .dirty, .out, .trace] := by
  obtain ⟨fb, d, out, h⟩ := s.composed_shape
  rw [h]
  intro p hp
  have same := Part.same_refl s p
  cases p with
  | fb => exact absurd (by decide) hp
  | dirty => exact absurd (by decide) hp
  | out => exact absurd (by decide) hp
  | trace => exact absurd (by decide) hp
  | _ => exact same

theorem State.unchanged_checked {s : State} : Unchanged s s.checked [.phase, .error] := by
  intro p hp
  have same := Part.same_refl s p
  unfold State.checked
  split <;> cases p with
  | phase => exact absurd (by decide) hp
  | error => exact absurd (by decide) hp
  | _ => exact same

theorem State.unchanged_resetBlock {s : State} : Unchanged s s.resetBlock resetParts := by
  intro p hp
  cases p with
  | cfg => rfl
  | draws => rfl
  | input => rfl
  | slot => rfl
  | trace => rfl
  | _ => exact absurd (by decide) hp

theorem SliceEffect.unchanged {s t : State} (e : SliceEffect s t) : Unchanged s t sliceParts := by
  intro p hp
  cases p with
  | cfg => exact e.cfg
  | phase => exact e.phase
  | error => exact e.error
  | slot => exact e.slot
  | frame => exact e.frame
  | fb => exact e.fb
  | out => exact e.out
  | _ => exact absurd (by decide) hp

theorem execSchedFrame_unchanged {s t : State} (h : execSchedFrame s = .next t) :
    Unchanged s t ([.frame, .fb, .out] ++ sliceParts) := by
  obtain ⟨u, rest, e, rfl⟩ := execSchedFrame_eq_next h
  obtain ⟨fb, d, out, he⟩ := u.endFrame_shape rest
  rw [he]
  intro p hp
  cases p with
  | cfg => exact e.cfg
  | phase => exact e.phase
  | error => exact e.error
  | slot => exact e.slot
  | _ => exact absurd (by decide) hp

/-- Every operation changes its parts and no other (R42, R301). -/
theorem exec_unchanged {i : Instr} {s t : State} (h : exec i s = .next t) : Unchanged s t (execParts i) := by
  by_cases tx : isTransaction i = true
  · rw [execParts_of_isTransaction tx]
    exact performTxn_unchanged ((performTxn_eq_exec i s tx).trans h)
  cases i with
  | intQuery => cases Outcome.eq_of_whenObject h; exact State.unchanged_query
  | intAssert => cases Outcome.eq_of_whenObject h; exact State.unchanged_assertLine
  | intClear => cases Outcome.eq_of_whenObject h; exact State.unchanged_clearLine
  | nmiTrigger => cases Outcome.eq_of_whenObject h; exact State.unchanged_triggerNmi
  | actLatchFromMain => cases Outcome.eq_of_whenObject h; exact State.unchanged_latchFromMain
  | actSendToMain => cases Outcome.eq_of_whenObject h; exact State.unchanged_sendToMain
  | hsYield => cases Outcome.eq_of_whenObject h; exact State.unchanged_yield
  | schedSlice => exact (execSchedSlice_eq_next h).2.unchanged
  | schedFrame => exact execSchedFrame_unchanged h
  | compose => cases h; exact State.unchanged_composed
  | tileResolve =>
    simp only [exec, execTileResolve] at h
    split at h <;> cases h
    exact State.unchanged_emit
  | layerDraw => cases Outcome.eq_of_whenObject h; exact State.unchanged_drawLayer
  | spriteDecode => cases Outcome.eq_of_whenObject h; exact State.unchanged_emit
  | spriteDraw => cases h; exact State.unchanged_withFb
  | paletteResolve => cases h; exact State.unchanged_emit
  | reset => cases h; exact State.unchanged_resetBlock
  | configCheck => obtain ⟨-, rfl⟩ := execConfigCheck_eq_next h; exact State.unchanged_checked
  | _ => exact absurd rfl tx

theorem mem_execParts_of_changed {i : Instr} {s t : State} (h : exec i s = .next t) {p : Part}
    (hp : ¬Part.same s t p) : p ∈ execParts i := by
  by_contra hn
  exact hp (exec_unchanged h p hn)

/-! ### The operations that write each part -/

/-- The keys of the operations that write a part. -/
def writerKeys : List (Part × List Byte) :=
  [(.mem, [0x81, 0x83, 0x85, 0x94, 0x58, 0x48, 0x49]),
   (.bank, [0x84, 0x58, 0x48, 0x49]),
   (.irqEn, [0x86, 0x93, 0x58, 0x48, 0x49]),
   (.asserted, [0x87, 0x88, 0x89, 0x09, 0x8C, 0x0C, 0x8E, 0x40, 0x41, 0x42, 0x43, 0x44, 0x45, 0x58, 0x48, 0x49]),
   (.nmiEn, [0x87, 0x58, 0x48, 0x49]),
   (.nmiPending, [0x87, 0x43, 0x89, 0x58, 0x48, 0x49]),
   (.hs, [0x89, 0x09, 0x8A, 0x0A, 0x58, 0x48, 0x49]),
   (.link, [0x8C, 0x0C, 0x8F, 0x8E, 0x44, 0x45, 0x58, 0x48, 0x49]),
   (.vreg, [0x93, 0x58, 0x48, 0x49]),
   (.dirty, [0x81, 0x83, 0x85, 0x94, 0x93, 0x4A, 0x58, 0x48, 0x49]),
   (.yieldReq, [0x89, 0x46, 0x58, 0x48, 0x49]),
   (.fb, [0x51, 0x53, 0x4A, 0x58, 0x49])]

/-- The operations that write the configuration (none, R20), the phase, the error, the position and the output: none of
them has operands. -/
def writerOps : List (Part × List Instr) :=
  [(.cfg, []),
   (.phase, [.reset, .configCheck]),
   (.error, [.reset, .configCheck]),
   (.turn, [.schedSlice, .schedFrame, .reset]),
   (.round, [.schedSlice, .schedFrame, .reset]),
   (.frame, [.schedFrame, .reset]),
   (.out, [.compose, .reset, .schedFrame])]

/-- The table of keys is the table of parts read the other way, operation by operation. -/
theorem key_mem_of_mem_execParts (i : Instr) : ∀ w ∈ writerKeys, w.1 ∈ execParts i → i.key ∈ w.2 := by
  cases i <;> simp only [execParts, txnParts, Instr.key] <;> decide

/-- See `key_mem_of_mem_execParts`; every operation but these five leaves the listed parts alone. -/
theorem op_mem_of_mem_execParts (i : Instr) : ∀ w ∈ writerOps, w.1 ∈ execParts i → i ∈ w.2 := by
  cases i with
  | schedSlice => decide
  | schedFrame => decide
  | compose => decide
  | reset => decide
  | configCheck => decide
  | _ =>
    intro w hw hp
    simp only [execParts, txnParts] at hp
    exact absurd hp ((by decide : ∀ w ∈ writerOps, w.1 ∉ _) w hw)

theorem key_mem_of_changed {i : Instr} {s t : State} (h : exec i s = .next t) {p : Part} {ks : List Byte}
    (listed : (p, ks) ∈ writerKeys) (hp : ¬Part.same s t p) : i.key ∈ ks :=
  key_mem_of_mem_execParts i (p, ks) listed (mem_execParts_of_changed h hp)

theorem op_mem_of_changed {i : Instr} {s t : State} (h : exec i s = .next t) {p : Part} {ops : List Instr}
    (listed : (p, ops) ∈ writerOps) (hp : ¬Part.same s t p) : i ∈ ops :=
  op_mem_of_mem_execParts i (p, ops) listed (mem_execParts_of_changed h hp)

/-- No operation writes the configuration (R20). -/
theorem exec_cfg {i : Instr} {s t : State} (h : exec i s = .next t) : t.cfg = s.cfg := by
  by_contra hn
  exact List.not_mem_nil (op_mem_of_changed h (p := .cfg) (by decide) hn)

theorem step_cfg {s t : State} (h : step s = .next t) : t.cfg = s.cfg := by
  obtain ⟨i, hi⟩ | e := step_eq_next h
  · have kept := exec_cfg hi
    exact kept
  · exact e.cfg

/-- Settles O58: a part that changed is one of the operation's parts, and the tables name the operations
that have it. -/
theorem whoWritesWhat : Obligations.WhoWritesWhat := by
  refine ⟨fun s t => step_cfg, fun i s t h => ?_⟩
  have key {p : Part} {ks : List Byte} := key_mem_of_changed h (p := p) (ks := ks)
  have op {p : Part} {ops : List Instr} := op_mem_of_changed h (p := p) (ops := ops)
  refine ⟨exec_cfg h, ?phaseOrError, key (p := .mem) (by decide), key (p := .bank) (by decide),
    key (p := .irqEn) (by decide), key (p := .asserted) (by decide), key (p := .nmiEn) (by decide),
    key (p := .nmiPending) (by decide), key (p := .hs) (by decide), key (p := .link) (by decide),
    key (p := .vreg) (by decide), key (p := .dirty) (by decide), key (p := .yieldReq) (by decide), ?turnOrRound,
    op (p := .frame) (by decide), key (p := .fb) (by decide), op (p := .out) (by decide)⟩
  case phaseOrError =>
    intro hn
    obtain hp | he := not_and_or.1 hn
    · exact op (p := .phase) (by decide) hp
    · exact op (p := .error) (by decide) he
  case turnOrRound =>
    intro hn
    obtain ht | hr := not_and_or.1 hn
    · exact op (p := .turn) (by decide) ht
    · exact op (p := .round) (by decide) hr

end Sys2Proof.Machine
end

section
/-! PROOFS. Two properties of the stores and the flags: no store reaches ROM (R23, R128), and no composition reads the
dirty flags (R33, R255). -/

namespace Sys2Proof.Machine

/-! ### ROM -/

theorem State.memWrite_rom (s : State) {b : Nat} (hr : s.cfg.isRam b = false) (off : Nat) (v : Byte) :
    s.memWrite b off v = s := by
  simp [State.memWrite, hr]

/-- A store to ROM leaves only the marking of layers, as every store makes it (R237). -/
theorem State.unchanged_storeByte_rom {s : State} {b : Nat} (hr : s.cfg.isRam b = false) (off : Nat) (v : Byte) :
    Unchanged s (s.storeByte b off v) [.dirty] := by
  rw [State.storeByte, s.memWrite_rom hr]
  exact unchanged_markDirty

theorem State.whenByte_storeByte_rom {s : State} {b off : Nat} (hb : s.cfg.hasByte b off = true)
    (hr : s.cfg.isRam b = false) (d : Byte) :
    ∃ t, Outcome.whenByte (s.cfg.hasByte b off) (s.storeByte b off d) = .next t ∧ Unchanged s t [.dirty] :=
  ⟨_, Outcome.whenByte_eq_next.2 ⟨hb, rfl⟩, unchanged_storeByte_rom hr off d⟩

/-- Settles O14: each of the four stores answers with `storeByte` at the ROM byte that its operands name. -/
theorem romIsNeverWritten : Obligations.RomIsNeverWritten := by
  intro s c o off d b hb hr
  have rom := State.whenByte_storeByte_rom hb hr d
  refine ⟨fun i hi => ?plain, fun k bank woff hk hreg hoff => ?bank, fun r region hreg hbuf => ?shared⟩
  case plain =>
    simp only [List.mem_cons, List.not_mem_nil, or_false] at hi
    obtain rfl | rfl := hi
    · rw [exec_wrRam]; exact rom
    · rw [exec_wrPalette]; exact rom
  case bank =>
    have reached : bank.offset (s.bankIdx k) woff = o + off := hoff.symm
    rw [exec_wrBank hk, hreg, reached]
    exact rom
  case shared =>
    rw [exec_wrShared hreg, hbuf]
    exact rom

/-! ### The dirty flags -/

/-- The state with other dirty flags. -/
def State.withDirty (s : State) (d : Table Bool) : State := { s with dirty := d }

theorem State.drawLayer_withDirty (s : State) (d : Table Bool) (l : Nat) (fs : Bool) :
    (s.withDirty d).drawLayer l fs = (s.drawLayer l fs).withDirty d := by
  unfold State.drawLayer
  rw [show (s.withDirty d).cfg = s.cfg from rfl]
  cases s.cfg.layers[l]? <;> rfl

/-- An item of `DRAW_ORDER` is drawn alike whatever the flags are (R252, R255). -/
theorem State.drawItem_withDirty (s : State) (d : Table Bool) (fs : Bool) (item : DrawItem) :
    (s.withDirty d).drawItem fs item = (s.drawItem fs item).withDirty d := by
  cases item with
  | layer l => exact s.drawLayer_withDirty d l fs
  | sprites p =>
    refine List.foldl_hom (fun s : State => s.withDirty d) fun t i => ?_
    rw [show (t.withDirty d).decodeSprite i = t.decodeSprite i from rfl]
    cases t.decodeSprite i with
    | none => rfl
    | some r =>
      dsimp only
      rw [show prioMatch (t.withDirty d).cfg r p = prioMatch t.cfg r p from rfl]
      cases prioMatch t.cfg r p <;> rfl

theorem State.drawFrame_withDirty (s : State) (d : Table Bool) : (s.withDirty d).drawFrame = s.drawFrame.withDirty d :=
  List.foldl_hom (fun s : State => s.withDirty d) (g₁ := fun t item => t.drawItem s.flipScreen item)
    (g₂ := fun t item => t.drawItem s.flipScreen item) (init := { s with fb := fillScreen s.cfg s.cfg.palette.bgPen })
    fun t item => t.drawItem_withDirty d s.flipScreen item

/-- What a composition answers, all but its flags, is read off the drawn frame. -/
theorem State.composed_eq (s : State) : ∃ d,
    s.composed = { s.drawFrame.withDirty d with
      out := some s.drawFrame.resolvePalette
      trace := .frame s.drawFrame.resolvePalette :: s.drawFrame.trace } := by
  obtain ⟨d, h⟩ := s.drawFrame.setDirtyAll_shape (List.range s.cfg.layers.length) false
  exact ⟨d, by unfold State.composed; rw [h]; rfl⟩

/-- Settles O47: the drawn frames differ in the flags alone, and the palette is resolved without them. -/
theorem dirtyIsHidden : Obligations.DirtyIsHidden := by
  intro s d
  obtain ⟨dt, ht⟩ := s.composed_eq
  obtain ⟨du, hu⟩ := (s.withDirty d).composed_eq
  rw [s.drawFrame_withDirty d] at hu
  refine ⟨s.composed, (s.withDirty d).composed, rfl, rfl, ?_, ?_, ?_⟩ <;> rw [ht, hu] <;> rfl

end Sys2Proof.Machine
end

section
/-! PROOFS. What a configuration that passes CONFIG.CHECK guarantees (R300): each check's wording (Safety.lean) holds of
every object, and the guarantees follow from the wordings. -/

namespace Sys2Proof.Machine

/-! ### Every object passes -/

/-- No entry of a checked configuration fails one of the checks that look at the entry alone. -/
theorem not_entryFails_of_checked {cfg : Config} (h : checkConfig cfg = none) {c : Nat} {dir : Dir} {e : Entry}
    (he : e ∈ cfg.map c dir) {code : CheckCode} (hcode : code ≠ .overlap) : ¬EntryFails cfg c dir [] e code := by
  obtain ⟨tag, direction, role, range, -, bounds, -, shared, -⟩ := checkConfig_eq_none.1 h
  have hl := Located.mem_all he
  intro hf
  cases code with
  | tag => exact Bool.false_ne_true ((tagOk_eq_false ..).1 hf ▸ firstEntry_eq_none.1 tag _ hl)
  | direction => exact Bool.false_ne_true ((directionOk_eq_false ..).1 hf ▸ firstEntry_eq_none.1 direction _ hl)
  | role => exact Bool.false_ne_true ((roleOk_eq_false ..).1 hf ▸ firstEntry_eq_none.1 role _ hl)
  | range => exact Bool.false_ne_true ((rangeOk_eq_false ..).1 hf ▸ firstEntry_eq_none.1 range _ hl)
  | overlap => exact hcode rfl
  | bounds => exact Bool.false_ne_true ((boundsOk_eq_false ..).1 hf ▸ firstEntry_eq_none.1 bounds _ hl)
  | bank => exact hf
  | shared => exact Bool.false_ne_true ((sharedOk_eq_false ..).1 hf ▸ firstEntry_eq_none.1 shared _ hl)
  | param => exact hf

theorem bankOk_of_checked {cfg : Config} (h : checkConfig cfg = none) {k : Nat} {bank : BankCfg}
    (hk : cfg.banks[k]? = some bank) : cfg.BankOk k := by
  obtain ⟨-, -, -, -, -, -, banks, -, -⟩ := checkConfig_eq_none.1 h
  exact (bankOk_iff cfg k bank hk).2 (bankError_eq_none.1 banks k bank hk)

theorem paramOk_of_checked {cfg : Config} (h : checkConfig cfg = none) (p : Param) : ParamOk cfg p := by
  obtain ⟨-, -, -, -, -, -, -, -, params⟩ := checkConfig_eq_none.1 h
  have listed : p ∈ (paramChecks cfg).map (·.1) := show p ∈ paramOrder by cases p <;> decide
  obtain ⟨q, hq, rfl⟩ := List.mem_map.1 listed
  exact (paramChecks_iff cfg q hq).1 (paramError_eq_none.1 params q hq)

/-! ### Entries in their space, in order -/

theorem entry_in_space {cfg : Config} (h : checkConfig cfg = none) {c : Nat} {dir : Dir} {cpu : CpuCfg} {e : Entry}
    (hc : cfg.cpus[c]? = some cpu) (he : e ∈ cfg.map c dir) : e.start ≤ e.stop ∧ e.stop < 2 ^ cpu.addrBits := by
  obtain ⟨hle, cpu', hc', hstop⟩ := not_not.1 (not_entryFails_of_checked h he (code := .range) nofun)
  cases hc.symm.trans hc'
  have := Nat.two_pow_pos cpu.addrBits
  exact ⟨hle, by omega⟩

/-- An entry's CPU exists. -/
theorem cpu_of_mem_map {cfg : Config} {c : Nat} {dir : Dir} {e : Entry} (he : e ∈ cfg.map c dir) :
    ∃ cpu, cfg.cpus[c]? = some cpu := by
  unfold Config.map at he
  cases hc : cfg.cpus[c]? with
  | none => simp [hc] at he
  | some cpu => exact ⟨cpu, rfl⟩

/-- The entries of a list stand one above the other (R90, R121). -/
theorem map_pairwise {cfg : Config} (h : checkConfig cfg = none) (c : Nat) (dir : Dir) :
    (cfg.map c dir).Pairwise (fun x y => x.stop < y.start) := by
  obtain ⟨-, -, -, -, overlap, -⟩ := checkConfig_eq_none.1 h
  have apart := (firstOverlap_eq_none (overlapError_eq_none overlap c dir)).2
  refine apart.imp_of_mem fun {x y} _ hy hxy => ?_
  obtain ⟨hno, hle⟩ := hxy
  obtain ⟨cpu, hc⟩ := cpu_of_mem_map hy
  have := (entry_in_space h hc hy).1
  simp only [overlaps, Bool.and_eq_false_iff, decide_eq_false_iff_not] at hno
  omega

/-! ### What stands behind an entry -/

theorem hasByte_of_hasByteOf {cfg : Config} {b off : Nat} {kind : BufKind} (h : cfg.HasByteOf b off kind) :
    cfg.hasByte b off = true := Config.hasByte_iff.2 ⟨kind, h⟩

theorem isRam_of_hasByteOf {cfg : Config} {b off : Nat} (h : cfg.HasByteOf b off .ram) : cfg.isRam b = true := by
  obtain ⟨buf, hb, hk, -⟩ := h
  exact Config.isRam_iff.2 ⟨buf, hb, hk⟩

section
variable {cfg : Config} (h : checkConfig cfg = none) {c : Nat} {dir : Dir} {e : Entry} (he : e ∈ cfg.map c dir)
include h he

/-- Plain memory behind an entry holds the entry's last byte, in a buffer of the kind its tag needs (R124). -/
theorem ramEntry_bounds {b o : Nat} (hcap : e.cap = .ram b o) : cfg.HasByteOf b (o + (e.stop - e.start)) .ram := by
  by_contra hn
  exact not_entryFails_of_checked h he (code := .bounds) nofun ⟨b, o, .inl ⟨hcap, hn⟩⟩

/-- See `ramEntry_bounds`. -/
theorem romEntry_bounds {b o : Nat} (hcap : e.cap = .rom b o) : cfg.HasByteOf b (o + (e.stop - e.start)) .rom := by
  by_contra hn
  exact not_entryFails_of_checked h he (code := .bounds) nofun ⟨b, o, .inr (.inl ⟨hcap, hn⟩)⟩

/-- See `ramEntry_bounds`; a palette that is read may be a PROM (log entry 9). -/
theorem paletteEntry_bounds {b o : Nat} (hcap : e.cap = .palette b o) :
    ∃ kind, cfg.HasByteOf b (o + (e.stop - e.start)) kind ∧ (dir = .write → kind = .ram) := by
  by_contra hn
  exact not_entryFails_of_checked h he (code := .bounds) nofun ⟨b, o, .inr (.inr ⟨hcap, hn⟩)⟩

theorem plainEntry_hasByte {b o : Nat} (hcap : e.cap = .ram b o ∨ e.cap = .rom b o ∨ e.cap = .palette b o) :
    cfg.hasByte b (o + (e.stop - e.start)) = true := by
  obtain hcap | hcap | hcap := hcap
  · exact hasByte_of_hasByteOf (ramEntry_bounds h he hcap)
  · exact hasByte_of_hasByteOf (romEntry_bounds h he hcap)
  · obtain ⟨kind, hb, -⟩ := paletteEntry_bounds h he hcap
    exact hasByte_of_hasByteOf hb

theorem writtenEntry_isRam {b o : Nat} (hd : dir = .write) (hcap : e.cap = .ram b o ∨ e.cap = .palette b o) :
    cfg.isRam b = true := by
  obtain hcap | hcap := hcap
  · exact isRam_of_hasByteOf (ramEntry_bounds h he hcap)
  · obtain ⟨kind, hb, hkind⟩ := paletteEntry_bounds h he hcap
    exact isRam_of_hasByteOf (hkind hd ▸ hb)

theorem not_readOnly_of_write (hd : dir = .write) : ¬Cap.ReadOnly cfg e.cap :=
  fun hc => not_entryFails_of_checked h he (code := .direction) nofun (.inr ⟨hd, hc⟩)

theorem not_writeOnly_of_read (hd : dir = .read) : ¬Cap.WriteOnly e.cap :=
  fun hc => not_entryFails_of_checked h he (code := .direction) nofun (.inl ⟨hd, hc⟩)

theorem refsExist_of_checked : cfg.RefsExist e.cap := by
  cases dir with
  | read => exact paramOk_of_checked h .readMap c e he
  | write => exact paramOk_of_checked h .writeMap c e he

/-- A banked window has its bank's length, and a written one a RAM region (R132). -/
theorem bankedEntry_bank {k : Nat} (hcap : e.cap = .banked k) : ∃ bank, cfg.banks[k]? = some bank ∧
    e.stop + 1 - e.start = bank.bankSize ∧ (dir = .write → cfg.isRam bank.region = true) := by
  have hlen : k < cfg.banks.length := by simpa [hcap, Config.RefsExist] using refsExist_of_checked h he
  obtain ⟨bank, buf, hk, hbuf, -, -, hsize⟩ := bankOk_of_checked h (List.getElem?_eq_getElem hlen)
  refine ⟨bank, hk, hsize c dir e he hcap, fun hd => Config.isRam_iff.2 ⟨buf, hbuf, ?_⟩⟩
  cases hkind : buf.kind with
  | ram => rfl
  | rom =>
    refine absurd ?_ (not_readOnly_of_write h he hd)
    exact .inr (.inr (.inr (.inr (.inr ⟨k, bank, buf, hcap, hk, hbuf, hkind⟩))))

/-- A shared window has its region's length, and the region is RAM (R25, R133). -/
theorem sharedEntry_region {r : Nat} (hcap : e.cap = .shared r) : ∃ region buf, cfg.shared[r]? = some region ∧
    cfg.buffers[region.buffer]? = some buf ∧ buf.kind = .ram ∧ e.stop + 1 - e.start = buf.size := by
  have hlen : r < cfg.shared.length := by simpa [hcap, Config.RefsExist] using refsExist_of_checked h he
  have hr : cfg.shared[r]? = some cfg.shared[r] := List.getElem?_eq_getElem hlen
  obtain ⟨buf, hbuf, hram, -⟩ := paramOk_of_checked h .shared r _ hr
  refine ⟨_, buf, hr, hbuf, hram, ?_⟩
  by_contra hn
  exact not_entryFails_of_checked h he (code := .shared) nofun ⟨r, _, buf, hcap, hr, hbuf, hn⟩

end

/-! ### Bank indices -/

/-- Every index that the mask admits selects a bank inside the region (R24, R132). -/
theorem bank_hasByte {cfg : Config} (h : checkConfig cfg = none) {k : Nat} {bank : BankCfg}
    (hk : cfg.banks[k]? = some bank) {index off : Nat} (hi : index ≤ bank.mask) (ho : off < bank.bankSize) :
    cfg.hasByte bank.region (bank.bankBase + index * bank.bankSize + off) = true := by
  obtain ⟨bank', buf, hk', hbuf, -, hsize, -⟩ := bankOk_of_checked h hk
  cases hk.symm.trans hk'
  have inBank : bank.bankBase + index * bank.bankSize + off < buf.size := calc
    _ < bank.bankBase + index * bank.bankSize + bank.bankSize := by omega
    _ = bank.bankBase + (index + 1) * bank.bankSize := by rw [Nat.succ_mul, Nat.add_assoc]
    _ ≤ bank.bankBase + (bank.mask + 1) * bank.bankSize :=
      Nat.add_le_add_left (Nat.mul_le_mul_right _ (Nat.succ_le_succ hi)) _
    _ ≤ buf.size := hsize
  simpa [Config.hasByte, hbuf] using inBank

/-! ### Every transaction selects an operation -/

/-- The read half of the table of R91: only the pairs it marks "no", and the reserved tags, have no operation. -/
theorem capInstr_read_eq_none {cfg : Config} {c off : Nat} {cap : Cap} {d : Byte}
    (h : capInstr cfg c .read cap off d = none) : (∃ tag, cap = .reserved tag) ∨ cap.WriteOnly := by
  cases cap <;> simp [capInstr, Cap.WriteOnly] at h ⊢

/-- The write half of the table of R91. -/
theorem capInstr_write_eq_none {cfg : Config} {c off : Nat} {cap : Cap} {d : Byte}
    (h : capInstr cfg c .write cap off d = none) : (∃ tag, cap = .reserved tag) ∨ cap.ReadOnly cfg := by
  cases cap <;> simp [capInstr, Cap.ReadOnly] at h ⊢

theorem capInstr_isSome {cfg : Config} (h : checkConfig cfg = none) {c : Nat} {dir : Dir} {e : Entry}
    (he : e ∈ cfg.map c dir) (off : Nat) (d : Byte) : ∃ i, capInstr cfg c dir e.cap off d = some i := by
  refine Option.ne_none_iff_exists'.1 fun hn => ?_
  have notReserved : ¬∃ tag, e.cap = .reserved tag := not_entryFails_of_checked h he (code := .tag) nofun
  cases dir with
  | read => exact (capInstr_read_eq_none hn).elim notReserved (not_writeOnly_of_read h he rfl)
  | write => exact (capInstr_write_eq_none hn).elim notReserved (not_readOnly_of_write h he rfl)

theorem txnInstr_isSome {cfg : Config} (h : checkConfig cfg = none) (c : Nat) (dir : Dir) (a : Nat) (d : Byte) :
    ∃ i, txnInstr cfg c dir a d = some i := by
  unfold txnInstr
  split
  · next e hl => exact capInstr_isSome h (List.mem_of_find?_eq_some hl) _ d
  · exact ⟨_, rfl⟩

/-- Settles O49. -/
theorem checkedConfiguration : Obligations.CheckedConfiguration := by
  intro cfg h
  refine ⟨fun c dir cpu e hc he => ?entry, map_pairwise h, fun k bank hk index off => bank_hasByte h hk,
    txnInstr_isSome h⟩
  obtain ⟨hle, hspace⟩ := entry_in_space h hc he
  refine ⟨hle, hspace, fun b o => plainEntry_hasByte h he, fun b o => writtenEntry_isRam h he,
    fun b o hd hcap => not_readOnly_of_write h he hd (.inl ⟨b, o, hcap⟩), fun k hcap => ?banked, fun r hcap => ?shared⟩
  case banked =>
    obtain ⟨bank, hk, hsize, hram⟩ := bankedEntry_bank h he hcap
    exact ⟨bank, hk, by omega, hram⟩
  case shared =>
    obtain ⟨region, buf, hr, hbuf, hram, hsize⟩ := sharedEntry_region h he hcap
    exact ⟨region, buf, hr, hbuf, hram, by omega⟩

end Sys2Proof.Machine
end

section
/-! PROOFS. Presenting a transaction (R65, R100, R120, R301): the step that takes its line off the script, and that the
operation which a checked configuration selects for it always completes. -/

namespace Sys2Proof.Machine

/-! ### The operations that a transaction selects -/

theorem vregInstr_isTransaction (cfg : Config) (w l off : Nat) (d : Byte) :
    isTransaction (vregInstr cfg w l off d) = true := by
  unfold vregInstr
  split <;> rfl

/-- The table of R91 names no internal operation. -/
theorem capInstr_isTransaction {cfg : Config} {c off : Nat} {dir : Dir} {cap : Cap} {d : Byte} {i : Instr}
    (h : capInstr cfg c dir cap off d = some i) : isTransaction i = true := by
  cases dir <;> cases cap <;> cases h
  case write.vreg => exact vregInstr_isTransaction ..
  all_goals rfl

theorem txnInstr_isTransaction {cfg : Config} {c a : Nat} {dir : Dir} {d : Byte} {i : Instr}
    (h : txnInstr cfg c dir a d = some i) : isTransaction i = true := by
  unfold txnInstr at h
  split at h
  · exact capInstr_isTransaction h
  · cases h; cases dir <;> rfl

/-- A read carries no byte: the operation is the same whatever stands in its place. -/
theorem txnInstr_read_byte (cfg : Config) (c a : Nat) (d d' : Byte) :
    txnInstr cfg c .read a d = txnInstr cfg c .read a d' := by
  unfold txnInstr
  split
  · next e _ => cases e.cap <;> rfl
  · rfl

/-! ### Taking a transaction off the script -/

/-- The script line of a transaction (R102); a read has no byte. -/
def txnLine (c : Nat) (dir : Dir) (a : Nat) (d : Byte) : ScriptLine :=
  match dir with
  | .read => some (.read c a)
  | .write => some (.write c a d)

theorem State.presents_iff {s : State} {w : ScriptLine} :
    s.presents w = true ↔ ∃ cpu dir a d, s.cfg.cpus[s.turn]? = some cpu ∧ a < 2 ^ cpu.addrBits ∧
      w = txnLine s.turn dir a d := by
  constructor
  · intro h
    unfold State.presents at h
    split at h
    · next c a cpu hcpu =>
      obtain ⟨rfl, ha⟩ : c = s.turn ∧ a < 2 ^ cpu.addrBits := by simpa using h
      exact ⟨cpu, .read, a, 0, hcpu, ha, rfl⟩
    · next c a d cpu hcpu =>
      obtain ⟨rfl, ha⟩ : c = s.turn ∧ a < 2 ^ cpu.addrBits := by simpa using h
      exact ⟨cpu, .write, a, d, hcpu, ha, rfl⟩
    · cases h
  · rintro ⟨cpu, dir, a, d, hcpu, ha, rfl⟩
    cases dir <;> simp [txnLine, State.presents, hcpu, ha]

theorem State.presents_congr {s t : State} (hcfg : t.cfg = s.cfg) (hturn : t.turn = s.turn) (w : ScriptLine) :
    t.presents w = s.presents w := by
  simp only [State.presents, hcfg, hturn]

theorem ne_slice_of_presents {s : State} {w : ScriptLine} (h : s.presents w = true) : w ≠ some .slice := by
  rintro rfl
  simp [State.presents] at h

theorem State.present_eq_exec {s : State} {cpu : CpuCfg} {dir : Dir} {a : Nat} {d : Byte} {i : Instr}
    (hyield : s.yieldReq = false) (hcpu : s.cfg.cpus[s.turn]? = some cpu) (ha : a < 2 ^ cpu.addrBits)
    (hi : txnInstr s.cfg s.turn dir a d = some i) (rest : List ScriptLine) :
    s.present s.turn dir a d rest = exec i { s with slicePos := .afterTxn, input := rest } := by
  rw [← performTxn_eq_exec i _ (txnInstr_isTransaction hi)]
  simp [State.present, hcpu, hyield, Nat.not_le.2 ha, hi]

/-- In an open slice, a transaction's line runs the operation that the map of the current CPU gives it (R120). -/
theorem State.midSlice_eq_exec {s : State} {cpu : CpuCfg} {dir : Dir} {a : Nat} {d : Byte} {i : Instr}
    (hyield : s.yieldReq = false) (hcpu : s.cfg.cpus[s.turn]? = some cpu) (ha : a < 2 ^ cpu.addrBits)
    (hi : txnInstr s.cfg s.turn dir a d = some i) (rest : List ScriptLine) :
    s.midSlice (txnLine s.turn dir a d) rest = exec i { s with slicePos := .afterTxn, input := rest } := by
  cases dir with
  | read => exact present_eq_exec hyield hcpu ha ((txnInstr_read_byte _ _ _ 0 d).trans hi) rest
  | write => exact present_eq_exec hyield hcpu ha hi rest

/-- A step in an open slice takes the next line, unless it ends the slice (R311). -/
theorem step_eq_midSlice {s : State} {w : ScriptLine} {rest : List ScriptLine} (hslot : s.slot = none)
    (hphase : s.phase = .running) (hround : s.round < s.cfg.slices) (hpos : s.slicePos ≠ .start)
    (hinput : s.input = w :: rest) (hw : w ≠ some .slice) : step s = s.midSlice w rest := by
  simp only [step, stepBlock, stepRunning, hslot, hphase, hinput, if_neg (Nat.not_le.2 hround), if_neg hpos, if_neg hw]

/-- Settles O2. -/
theorem stepRunsTransaction : Obligations.StepRunsTransaction := by
  intro s rest cpu dir a d i hslot hphase hround hpos hyield hcpu ha hinput hi
  have hline : s.input = txnLine s.turn dir a d :: rest := by cases dir <;> exact hinput
  have hw : txnLine s.turn dir a d ≠ some .slice := by cases dir <;> exact nofun
  calc step s = s.midSlice (txnLine s.turn dir a d) rest := step_eq_midSlice hslot hphase hround hpos hline hw
    _ = exec i { s with slicePos := .afterTxn, input := rest } := State.midSlice_eq_exec hyield hcpu ha hi rest

/-! ### The objects behind a checked entry exist -/

theorem Config.hasByte_mono {cfg : Config} {b off off' : Nat} (h : cfg.hasByte b off' = true) (hle : off ≤ off') :
    cfg.hasByte b off = true := by
  obtain ⟨kind, buf, hb, hk, hlt⟩ := Config.hasByte_iff.1 h
  exact Config.hasByte_iff.2 ⟨kind, buf, hb, hk, Nat.lt_of_le_of_lt hle hlt⟩

section
variable {cfg : Config} (h : checkConfig cfg = none) {c : Nat} {dir : Dir} {e : Entry} (he : e ∈ cfg.map c dir)
include h he

/-- A bank index within its mask reaches a byte of the region from every address of the window (R24, R129, R132). -/
theorem bankedEntry_hasByte {k off index : Nat} (hcap : e.cap = .banked k) (hoff : off ≤ e.stop - e.start)
    (hindex : ∀ bank, cfg.banks[k]? = some bank → index ≤ bank.mask) :
    ∃ bank, cfg.banks[k]? = some bank ∧ cfg.hasByte bank.region (bank.offset index off) = true := by
  obtain ⟨bank, hk, hsize, -⟩ := bankedEntry_bank h he hcap
  obtain ⟨cpu, hcpu⟩ := cpu_of_mem_map he
  have hle := (entry_in_space h hcpu he).1
  exact ⟨bank, hk, bank_hasByte h hk (hindex bank hk) (by omega)⟩

/-- Every address of a shared window reaches a byte of the region (R25, R133). -/
theorem sharedEntry_hasByte {r off : Nat} (hcap : e.cap = .shared r) (hoff : off ≤ e.stop - e.start) :
    ∃ region, cfg.shared[r]? = some region ∧ cfg.hasByte region.buffer off = true := by
  obtain ⟨region, buf, hr, hbuf, -, hsize⟩ := sharedEntry_region h he hcap
  obtain ⟨cpu, hcpu⟩ := cpu_of_mem_map he
  have hle := (entry_in_space h hcpu he).1
  exact ⟨region, hr, Config.hasByte_iff.2 ⟨buf.kind, buf, hbuf, rfl, by omega⟩⟩

/-- The CPU that presents a handshake transaction has a role in the handshake, so there is one (R93). -/
theorem hsEntry_handshake {k : Nat} (hcap : e.cap = .hsCmd k ∨ e.cap = .hsRes k ∨ e.cap = .hsStatus k) :
    ∃ hc, cfg.handshakes[k]? = some hc := by
  have role : cfg.HsPrimary k c ∨ cfg.HsSecondary k c := by
    by_contra hn
    obtain ⟨notPrimary, notSecondary⟩ := not_or.1 hn
    refine not_entryFails_of_checked h he (code := .role) nofun ?_
    obtain hcap | hcap | hcap := hcap
    · cases dir with
      | read => exact .inr (.inl ⟨k, .inl ⟨hcap, rfl⟩, notSecondary⟩)
      | write => exact .inl ⟨k, .inl ⟨hcap, rfl⟩, notPrimary⟩
    · cases dir with
      | read => exact .inl ⟨k, .inr ⟨hcap, rfl⟩, notPrimary⟩
      | write => exact .inr (.inl ⟨k, .inr ⟨hcap, rfl⟩, notSecondary⟩)
    · exact .inr (.inr (.inl ⟨k, hcap, notPrimary, notSecondary⟩))
  obtain ⟨hc, hk, -⟩ | ⟨hc, hk, -⟩ := role
  · exact ⟨hc, hk⟩
  · exact ⟨hc, hk⟩

/-- See `hsEntry_handshake`: the primary's side of a link. -/
theorem mcuEntry_link {m : Nat} (hcap : e.cap = .mcuData m ∨ e.cap = .mcuStatus m) :
    ∃ lc, cfg.links[m]? = some lc := by
  by_contra hn
  exact not_entryFails_of_checked h he (code := .role) nofun
    (.inr (.inr (.inr (.inl ⟨m, hcap, fun ⟨lc, hm, _⟩ => hn ⟨lc, hm⟩⟩))))

/-- See `hsEntry_handshake`: the microcontroller's side of a link. -/
theorem portEntry_link {m : Nat} {p : Port} (hcap : e.cap = .mcuPort m p ∨ e.cap = .mcuDdr m p) :
    ∃ lc, cfg.links[m]? = some lc := by
  by_contra hn
  exact not_entryFails_of_checked h he (code := .role) nofun
    (.inr (.inr (.inr (.inr ⟨m, p, hcap, fun ⟨lc, hm, _⟩ => hn ⟨lc, hm⟩⟩))))

end

/-! ### Every transaction completes -/

theorem Outcome.whenByte_completes {ok : Bool} (h : ok = true) (t : State) : ∃ u, Outcome.whenByte ok t = .next u :=
  ⟨t, Outcome.whenByte_eq_next.2 ⟨h, rfl⟩⟩

theorem Outcome.whenObject_completes {ok : Bool} (h : ok = true) (t : State) :
    ∃ u, Outcome.whenObject ok t = .next u := ⟨t, Outcome.whenObject_eq_next.2 ⟨h, rfl⟩⟩

theorem exec_vregInstr_completes {s : State} {l : Nat} (hl : s.cfg.hasLayer l = true) (w off : Nat) (d : Byte) :
    ∃ t, exec (vregInstr s.cfg w l off d) s = .next t := by
  unfold vregInstr
  split <;> exact Outcome.whenObject_completes hl _

/-- The operation of an entry completes at every offset of its window: tag by tag, the objects and the byte that it
needs exist. -/
theorem exec_capInstr_completes {s : State} (h : checkConfig s.cfg = none)
    (hbank : ∀ k bank, s.cfg.banks[k]? = some bank → s.bankIdx k ≤ bank.mask) {c : Nat} {dir : Dir} {e : Entry}
    (he : e ∈ s.cfg.map c dir) {off : Nat} (hoff : off ≤ e.stop - e.start) {d : Byte} {i : Instr}
    (hi : capInstr s.cfg c dir e.cap off d = some i) : ∃ t, exec i s = .next t := by
  have plain {b o : Nat} (hcap : e.cap = .ram b o ∨ e.cap = .rom b o ∨ e.cap = .palette b o) :
      s.cfg.hasByte b (o + off) = true :=
    Config.hasByte_mono (plainEntry_hasByte h he hcap) (Nat.add_le_add_left hoff o)
  have refs := refsExist_of_checked h he
  cases hcap : e.cap with rw [hcap] at hi refs
  | ram b o =>
    have byte := plain (.inl hcap)
    cases dir <;> cases hi
    · exact Outcome.whenByte_completes byte _
    · exact Outcome.whenByte_completes byte _
  | rom b o =>
    cases dir <;> cases hi
    exact Outcome.whenByte_completes (plain (.inr (.inl hcap))) _
  | palette b o =>
    have byte := plain (.inr (.inr hcap))
    cases dir <;> cases hi
    · exact Outcome.whenByte_completes byte _
    · exact Outcome.whenByte_completes byte _
  | banked k =>
    obtain ⟨bank, hk, byte⟩ := bankedEntry_hasByte h he hcap hoff (hbank k)
    cases dir <;> cases hi
    · rw [exec_rdBank hk]; exact Outcome.whenByte_completes byte _
    · rw [exec_wrBank hk]; exact Outcome.whenByte_completes byte _
  | shared r =>
    obtain ⟨region, hr, byte⟩ := sharedEntry_hasByte h he hcap hoff
    cases dir <;> cases hi
    · rw [exec_rdShared hr]; exact Outcome.whenByte_completes byte _
    · rw [exec_wrShared hr]; exact Outcome.whenByte_completes byte _
  | banksel k =>
    cases dir <;> cases hi
    simp [exec, execWrBanksel, List.getElem?_eq_getElem refs]
  | irqen c' line bit =>
    cases dir <;> cases hi
    exact Outcome.whenObject_completes (hasLine_iff.2 refs) _
  | nmien c' =>
    obtain ⟨cpu, hcpu, -⟩ := refs
    cases dir <;> cases hi
    simp [exec, execWrNmien, hcpu]
  | irqclr c' ty =>
    cases dir <;> cases hi
    exact Outcome.whenObject_completes (lineOk_iff.2 refs) _
  | hsCmd k =>
    obtain ⟨hc, hk⟩ := hsEntry_handshake h he (.inl hcap)
    cases dir <;> cases hi
    · simp [exec, execRdHsCmd, hk]
    · simp [exec, execWrHsCmd, hk]
  | hsRes k =>
    obtain ⟨hc, hk⟩ := hsEntry_handshake h he (.inr (.inl hcap))
    have hlt := decide_eq_true (List.getElem?_eq_some_iff.1 hk).1
    cases dir <;> cases hi
    · exact Outcome.whenObject_completes hlt _
    · exact Outcome.whenObject_completes hlt _
  | hsStatus k =>
    obtain ⟨hc, hk⟩ := hsEntry_handshake h he (.inr (.inr hcap))
    cases dir <;> cases hi
    simp [exec, execRdHsStatus, hk]
  | mcuData m =>
    obtain ⟨lc, hm⟩ := mcuEntry_link h he (.inl hcap)
    cases dir <;> cases hi
    · simp [exec, execRdMcuData, hm]
    · simp [exec, execWrMcuData, hm]
  | mcuStatus m =>
    obtain ⟨lc, hm⟩ := mcuEntry_link h he (.inr hcap)
    cases dir <;> cases hi
    simp [exec, execRdMcuStatus, hm]
  | mcuPort m p =>
    obtain ⟨lc, hm⟩ := portEntry_link h he (.inl hcap)
    cases dir <;> cases hi
    · exact Outcome.whenObject_completes (decide_eq_true (List.getElem?_eq_some_iff.1 hm).1) _
    · simp [exec, execWrMcuPort, hm]
  | mcuDdr m p =>
    obtain ⟨lc, hm⟩ := portEntry_link h he (.inr hcap)
    cases dir <;> cases hi
    exact Outcome.whenObject_completes (decide_eq_true (List.getElem?_eq_some_iff.1 hm).1) _
  | sound dev =>
    have hlt : dev < s.cfg.sounds.length := refs
    cases dir <;> cases hi
    · exact Outcome.whenObject_completes (decide_eq_true hlt) _
    · exact Outcome.whenObject_completes (decide_eq_true hlt) _
  | soundBusy dev =>
    cases dir <;> cases hi
    simp [exec, execRdSoundBusy, List.getElem?_eq_getElem refs]
  | input i0 =>
    cases dir <;> cases hi
    exact ⟨_, rfl⟩
  | vreg l =>
    cases dir <;> cases hi
    exact exec_vregInstr_completes (decide_eq_true refs) _ _ _
  | reserved tag => cases dir <;> cases hi

/-- There is no illegal transaction (R65): open bus answers where no entry covers the address (R122, R123). -/
theorem exec_txnInstr_completes {s : State} (h : checkConfig s.cfg = none)
    (hbank : ∀ k bank, s.cfg.banks[k]? = some bank → s.bankIdx k ≤ bank.mask) {c a : Nat} {cpu : CpuCfg}
    (hcpu : s.cfg.cpus[c]? = some cpu) {dir : Dir} {d : Byte} {i : Instr} (hi : txnInstr s.cfg c dir a d = some i) :
    ∃ t, exec i s = .next t := by
  unfold txnInstr at hi
  split at hi
  · next e hl =>
    have covers : e.start ≤ a ∧ a ≤ e.stop := by simpa [Entry.covers] using List.find?_some hl
    exact exec_capInstr_completes h hbank (List.mem_of_find?_eq_some hl) (by omega) hi
  · cases hi
    cases dir with
    | read => simp [openInstr, exec, execRdOpen, hcpu]
    | write => exact ⟨s, rfl⟩

/-! ### The yield request -/

/-- Only a command write of a handshake with synchronous delivery asks for a yield (R190, R195). -/
theorem performTxn_yieldReq {s t : State} {i : Instr} (h : performTxn i s = .next t)
    (noSync : ∀ hc ∈ s.cfg.handshakes, hc.syncDelivery = false) : t.yieldReq = s.yieldReq := by
  cases i with
  | wrHsCmd w k d =>
    simp only [performTxn, execWrHsCmd] at h
    split at h
    · next hc hk =>
      simp only [noSync hc (List.mem_of_getElem? hk), Bool.false_eq_true, if_false] at h
      cases h
      exact (State.unchanged_setHs.trans State.unchanged_commandEffect) .yieldReq (by simp)
    · cases h
  | _ => exact performTxn_unchanged h .yieldReq (by simp [txnParts])

/-! ### Lines and slices of transactions -/

/-- A transaction of the current CPU completes in an open slice; without synchronous delivery, the slice goes on. -/
theorem State.midSlice_completes {s : State} {w : ScriptLine} (h : s.Inv) (hphase : s.phase = .running)
    (hyield : s.yieldReq = false) (hw : s.presents w = true) (rest : List ScriptLine) :
    ∃ t, s.midSlice w rest = .next t ∧ t.input = rest ∧
      ((∀ hc ∈ s.cfg.handshakes, hc.syncDelivery = false) → t.yieldReq = false) := by
  obtain ⟨cpu, dir, a, d, hcpu, ha, rfl⟩ := presents_iff.1 hw
  have checked := h.checked hphase
  obtain ⟨i, hi⟩ := txnInstr_isSome checked s.turn dir a d
  obtain ⟨t, ht⟩ :=
    exec_txnInstr_completes (s := { s with slicePos := .afterTxn, input := rest }) checked h.bank hcpu hi
  have performed := (performTxn_eq_exec i _ (txnInstr_isTransaction hi)).trans ht
  exact ⟨t, (midSlice_eq_exec hyield hcpu ha hi rest).trans ht, (performTxn_kept i _ t performed).2.input,
    fun noSync => (performTxn_yieldReq performed noSync).trans hyield⟩

theorem State.Inv.error_of_running {s : State} (h : s.Inv) (hphase : s.phase = .running) : s.error = none := by
  by_contra he
  cases hphase.symm.trans (h.error.2 he)

/-- Settles O56. -/
theorem transactionsComplete : Obligations.TransactionsComplete := by
  intro s w rest h hslot hphase hround hpos hyield hinput hw
  obtain ⟨t, ht, hrest, -⟩ := State.midSlice_completes h hphase hyield hw rest
  have same := State.midSlice_sameTurn ht
  exact ⟨t, (step_eq_midSlice hslot hphase hround hpos hinput (ne_slice_of_presents hw)).trans ht, hrest,
    same.phase.trans hphase, same.turn, same.round, same.error.trans (h.error_of_running hphase)⟩

/-- The loop of R311 takes any number of transactions and the SLICE line after them off the script. -/
theorem sliceLoop_completes {rest ws : List ScriptLine} {s : State} (h : s.Inv) (hphase : s.phase = .running)
    (hyield : s.yieldReq = false) (noSync : ∀ hc ∈ s.cfg.handshakes, hc.syncDelivery = false)
    (hws : ∀ w ∈ ws, s.presents w = true) :
    ∃ t, sliceLoop (ws ++ some .slice :: rest) s = .next t ∧ t.input = rest := by
  induction ws generalizing s with
  | nil => exact ⟨{ s with input := rest }, by simp [sliceLoop], rfl⟩
  | cons w ws ih =>
    obtain ⟨hw, hws⟩ := List.forall_mem_cons.1 hws
    obtain ⟨u, hu, -, noYield⟩ := State.midSlice_completes h hphase hyield hw (ws ++ some .slice :: rest)
    have same := State.midSlice_sameTurn hu
    have presents : ∀ w ∈ ws, u.presents w = true := fun w hm =>
      (State.presents_congr same.cfg same.turn w).trans (hws w hm)
    obtain ⟨t, ht, hrest⟩ :=
      ih (same.inv h) (same.phase.trans hphase) (noYield noSync) (same.cfg ▸ noSync) presents
    refine ⟨t, ?_, hrest⟩
    simp only [List.cons_append, sliceLoop, if_neg (ne_slice_of_presents hw), hu, ht]

theorem State.endSlice_input (s : State) : s.endSlice.input = s.input := by
  unfold State.endSlice
  split <;> rfl

theorem exec_schedSlice_of_open {s u : State} (hphase : s.phase = .running) (hround : s.round < s.cfg.slices)
    (hpos : s.slicePos ≠ .start) (hloop : sliceLoop s.input s = .next u) :
    exec .schedSlice s = .next u.endSlice := by
  simp only [exec, execSchedSlice, if_pos hphase, if_pos hround, State.runSlice, if_neg hpos, hloop]

/-- Settles O51: the loop completes, and what a slice's end does to the turn and the round is the slice's effect. -/
theorem sliceCompletes : Obligations.SliceCompletes := by
  intro s ws rest h hphase hround hpos hyield noSync hws hinput
  obtain ⟨u, hu, hrest⟩ := sliceLoop_completes h hphase hyield noSync hws
  have run : exec .schedSlice s = .next u.endSlice := exec_schedSlice_of_open hphase hround hpos (hinput ▸ hu)
  obtain ⟨-, effect⟩ := execSchedSlice_eq_next run
  have cpus : 1 ≤ s.cfg.cpus.length := paramOk_of_checked (h.checked hphase) .nCpu
  have turn := h.turn
  refine ⟨u.endSlice, run, u.endSlice_input.trans hrest, effect.phase.trans hphase, effect.yield, ?_⟩
  obtain ⟨more, hturn, hsame⟩ | ⟨last, hturn, hnext⟩ := effect.adv
  · rw [if_neg (by omega), if_neg (by omega)]; exact ⟨hturn, hsame⟩
  · rw [if_pos (by omega), if_pos (by omega)]; exact ⟨hturn, hnext⟩

end Sys2Proof.Machine
end

section
/-! PROOFS. The operation word (R92, R103; log entry 4): what each reader of the decoder accepts, said as an equivalence
over the readers' laws (Laws/Decode.lean), and from that the other half of the round trip. -/

namespace Sys2Proof

variable {α : Type}

/-! ### What a reader accepts -/

theorem getByte_iff {bs : List Byte} {k : Byte → List Byte → Option α} {a : α} :
    getByte bs k = some a ↔ ∃ d rest, bs = d :: rest ∧ k d rest = some a :=
  ⟨getByte_eq_some, fun ⟨d, rest, hbs, hk⟩ => by rw [hbs, getByte_cons, hk]⟩

theorem get8_iff {bs : List Byte} {k : Nat → List Byte → Option α} {a : α} :
    get8 bs k = some a ↔ ∃ n rest, bs = enc8 n ++ rest ∧ fits8 n = true ∧ k n rest = some a :=
  ⟨get8_eq_some, fun ⟨n, rest, hbs, hn, hk⟩ => by rw [hbs, get8_enc8 hn, hk]⟩

theorem get16_iff {bs : List Byte} {k : Nat → List Byte → Option α} {a : α} :
    get16 bs k = some a ↔ ∃ n rest, bs = enc16 n ++ rest ∧ fits16 n = true ∧ k n rest = some a :=
  ⟨get16_eq_some, fun ⟨n, rest, hbs, hn, hk⟩ => by rw [hbs, get16_enc16 hn, hk]⟩

theorem get32_iff {bs : List Byte} {k : Nat → List Byte → Option α} {a : α} :
    get32 bs k = some a ↔ ∃ n rest, bs = enc32 n ++ rest ∧ fits32 n = true ∧ k n rest = some a :=
  ⟨get32_eq_some, fun ⟨n, rest, hbs, hn, hk⟩ => by rw [hbs, get32_enc32 hn, hk]⟩

/-- Four bytes are the two's complement of the number that `getInt32` makes of them. -/
theorem getInt32_iff {bs : List Byte} {k : Int → List Byte → Option α} {a : α} :
    getInt32 bs k = some a ↔ ∃ x rest, bs = encInt32 x ++ rest ∧ fitsInt32 x = true ∧ k x rest = some a := by
  constructor
  · intro h
    obtain ⟨n, rest, rfl, hn, hk⟩ := get32_eq_some h
    simp only [fits32, decide_eq_true_eq] at hn
    refine ⟨_, rest, ?_, ?_, hk⟩
    · rw [encInt32]
      congr 2
      split <;> omega
    · simp only [fitsInt32, Bool.and_eq_true, decide_eq_true_eq]
      split <;> omega
  · rintro ⟨x, rest, rfl, hx, hk⟩
    rw [getInt32_encInt32 hx, hk]

theorem getBool_iff {bs : List Byte} {k : Bool → List Byte → Option α} {a : α} :
    getBool bs k = some a ↔ ∃ b rest, bs = encBool b ++ rest ∧ k b rest = some a := by
  constructor
  · intro h
    obtain ⟨n, rest, rfl, -, hk⟩ := get8_eq_some h
    split at hk
    · exact ⟨false, rest, rfl, hk⟩
    · exact ⟨true, rest, rfl, hk⟩
    · cases hk
  · rintro ⟨b, rest, rfl, hk⟩
    rw [getBool_encBool, hk]

theorem getMode_iff {bs : List Byte} {k : AssertMode → List Byte → Option α} {a : α} :
    getMode bs k = some a ↔ ∃ m rest, bs = encMode m ++ rest ∧ k m rest = some a := by
  constructor
  · intro h
    obtain ⟨n, rest, rfl, -, hk⟩ := get8_eq_some h
    split at hk
    · exact ⟨.pulse, rest, rfl, hk⟩
    · exact ⟨.level, rest, rfl, hk⟩
    · cases hk
  · rintro ⟨m, rest, rfl, hk⟩
    rw [getMode_encMode, hk]

theorem getPort_iff {bs : List Byte} {k : Port → List Byte → Option α} {a : α} :
    getPort bs k = some a ↔ ∃ p rest, bs = encPort p ++ rest ∧ k p rest = some a := by
  constructor
  · intro h
    obtain ⟨n, rest, rfl, -, hk⟩ := get8_eq_some h
    split at hk
    · exact ⟨.a, rest, rfl, hk⟩
    · exact ⟨.b, rest, rfl, hk⟩
    · cases hk
  · rintro ⟨p, rest, rfl, hk⟩
    rw [getPort_encPort, hk]

theorem getBit_iff {bs : List Byte} {k : Nat → List Byte → Option α} {a : α} :
    getBit bs k = some a ↔ ∃ n rest, bs = enc8 n ++ rest ∧ fitsBit n = true ∧ k n rest = some a := by
  constructor
  · intro h
    obtain ⟨n, rest, rfl, -, hk⟩ := get8_eq_some h
    split at hk
    · next hn => exact ⟨n, rest, rfl, decide_eq_true hn, hk⟩
    · cases hk
  · rintro ⟨n, rest, rfl, hn, hk⟩
    rw [getBit_enc8 hn, hk]

theorem getSize_iff {bs : List Byte} {k : Fin 4 → List Byte → Option α} {a : α} :
    getSize bs k = some a ↔ ∃ n : Fin 4, ∃ rest, bs = enc8 n.val ++ rest ∧ k n rest = some a := by
  constructor
  · intro h
    obtain ⟨n, rest, rfl, -, hk⟩ := get8_eq_some h
    split at hk
    · next hn => exact ⟨⟨n, hn⟩, rest, rfl, hk⟩
    · cases hk
  · rintro ⟨n, rest, rfl, hk⟩
    rw [getSize_enc8, hk]

/-- The readers of a sprite's fields, one after the other, take its encoding. -/
theorem getSprite_iff {bs : List Byte} {k : SpriteRec → List Byte → Option α} {a : α} :
    getSprite bs k = some a ↔ ∃ s rest, bs = encSprite s ++ rest ∧ s.wellFormed = true ∧ k s rest = some a := by
  constructor
  · simp only [getSprite, get32_iff, getInt32_iff, getBool_iff, getSize_iff]
    rintro ⟨code, _, rfl, hcode, x, _, rfl, hx, y, _, rfl, hy, color, _, rfl, hcolor, flipX, _, rfl, flipY, _, rfl,
      size, _, rfl, prio, rest, rfl, hprio, hk⟩
    refine ⟨⟨code, x, y, color, flipX, flipY, size, prio⟩, rest, ?_, ?_, hk⟩
    · simp only [encSprite, List.append_assoc]
    · simp only [SpriteRec.wellFormed, hcode, hx, hy, hcolor, hprio, Bool.and_self]
  · rintro ⟨s, rest, rfl, hs, hk⟩
    rw [getSprite_encSprite hs, hk]

/-! ### What the decoder accepts -/

/-- The bytes are the operands of the operation, in their ranges, and what follows them; its key is the given one. -/
def IsWord (key : Nat) (bs : List Byte) (i : Instr) (rest : List Byte) : Prop :=
  i.wellFormed = true ∧ i.key.toNat = key ∧ bs = i.operands ++ rest

/-- The field byte of a video register write is one of the six that the encoder writes. -/
theorem isWord_of_getVreg {bs rest : List Byte} {i : Instr} (h : getVreg bs = some (i, rest)) :
    IsWord 0x93 bs i rest := by
  obtain ⟨f, _, rfl, -, h⟩ := get8_eq_some h
  obtain ⟨w, _, rfl, hw, h⟩ := get8_eq_some h
  obtain ⟨l, _, rfl, hl, h⟩ := get16_eq_some h
  split at h
  case h_1 =>
    obtain ⟨off, _, rfl, hoff, h⟩ := get32_eq_some h
    obtain ⟨d, _, rfl, h⟩ := getByte_eq_some h
    cases h
    exact ⟨by simp only [Instr.wellFormed, hw, hl, hoff, Bool.and_self], rfl, by simp [Instr.operands, enc8]⟩
  case h_7 => cases h
  all_goals
    obtain ⟨d, _, rfl, h⟩ := getByte_eq_some h
    cases h
    exact ⟨by simp only [Instr.wellFormed, hw, hl, Bool.and_self], rfl, by simp [Instr.operands, enc8]⟩

/-- Each key's chain of readers accepts the operand bytes of its operation and nothing else. -/
theorem isWord_of_decodeKeyed {key : Nat} {bs rest : List Byte} {i : Instr}
    (h : decodeKeyed key bs = some (i, rest)) : IsWord key bs i rest := by
  revert h
  unfold decodeKeyed
  split
  -- key 0x93, the register writes of one layer (R103)
  case h_29 => exact isWord_of_getVreg
  all_goals
    simp only [get8_iff, get16_iff, get32_iff, getByte_iff, getBit_iff, getBool_iff, getMode_iff, getPort_iff,
      getSprite_iff, Option.some.injEq, Prod.mk.injEq, reduceCtorEq, forall_exists_index, and_imp, false_implies]
  all_goals
    intros
    subst_vars
    simp only [IsWord, Instr.wellFormed, Instr.key, Instr.operands, IntType.code_ofCode, BitVec.reduceToNat,
      List.append_assoc, List.cons_append, List.nil_append, Bool.and_self, and_self, *]

/-- Settles O5. -/
theorem decodeEncode : Obligations.DecodeEncode := fun _ rest h => decode_encode_append h rest

theorem isWord_of_decode {key : Byte} {bs rest : List Byte} {i : Instr} (h : decode (key :: bs) = some (i, rest)) :
    i.wellFormed = true ∧ i.key = key ∧ bs = i.operands ++ rest := by
  obtain ⟨hwf, hkey, hbs⟩ := isWord_of_decodeKeyed h
  exact ⟨hwf, BitVec.eq_of_toNat_eq hkey, hbs⟩

/-- Settles O6. -/
theorem decodeOnlyWords : Obligations.DecodeOnlyWords := by
  intro bytes i rest h
  cases bytes with
  | nil => cases h
  | cons key bs =>
    obtain ⟨hwf, rfl, rfl⟩ := isWord_of_decode h
    exact ⟨hwf, rfl⟩

end Sys2Proof
end

section
/-! PROOFS. The transaction word (R102): its fields, the events that have one, and both round trips (log entry 20). -/

namespace Sys2Proof

/-! ### The fields of a word -/

/-- Four fields in their ranges do not overlap in the word. -/
theorem wordOf_toNat {kind cpu addr : Nat} (hk : kind < 2 ^ 4) (hc : cpu < 2 ^ 4) (ha : addr < 2 ^ 32) (data : Byte) :
    (wordOf kind cpu addr data).toNat = kind * 2 ^ 44 + cpu * 2 ^ 40 + addr * 2 ^ 8 + data.toNat := by
  have := data.isLt
  rw [wordOf, BitVec.toNat_ofNat, Nat.mod_eq_of_lt (by omega)]

section
variable {kind cpu addr : Nat} (hk : kind < 2 ^ 4) (hc : cpu < 2 ^ 4) (ha : addr < 2 ^ 32) (data : Byte)
include hk hc ha

theorem wordOf_kind : (wordOf kind cpu addr data).toNat / 2 ^ 44 = kind := by
  rw [wordOf_toNat hk hc ha]; omega

theorem wordOf_cpu : (wordOf kind cpu addr data).toNat / 2 ^ 40 % 2 ^ 4 = cpu := by
  rw [wordOf_toNat hk hc ha]; omega

theorem wordOf_addr : (wordOf kind cpu addr data).toNat / 2 ^ 8 % 2 ^ 32 = addr := by
  rw [wordOf_toNat hk hc ha]; omega

theorem wordOf_data : BitVec.ofNat 8 (wordOf kind cpu addr data).toNat = data := by
  apply BitVec.eq_of_toNat_eq
  rw [BitVec.toNat_ofNat, wordOf_toNat hk hc ha]
  omega

theorem extract_kind : (wordOf kind cpu addr data).extractLsb' 44 4 = BitVec.ofNat 4 kind := by
  apply BitVec.eq_of_toNat_eq
  rw [BitVec.extractLsb'_toNat, BitVec.toNat_ofNat, Nat.shiftRight_eq_div_pow, wordOf_kind hk hc ha]

theorem extract_cpu : (wordOf kind cpu addr data).extractLsb' 40 4 = BitVec.ofNat 4 cpu := by
  apply BitVec.eq_of_toNat_eq
  rw [BitVec.extractLsb'_toNat, BitVec.toNat_ofNat, Nat.shiftRight_eq_div_pow, wordOf_cpu hk hc ha,
    Nat.mod_eq_of_lt hc]

theorem extract_addr : (wordOf kind cpu addr data).extractLsb' 8 32 = BitVec.ofNat 32 addr := by
  apply BitVec.eq_of_toNat_eq
  rw [BitVec.extractLsb'_toNat, BitVec.toNat_ofNat, Nat.shiftRight_eq_div_pow, wordOf_addr hk hc ha,
    Nat.mod_eq_of_lt ha]

theorem extract_data : (wordOf kind cpu addr data).extractLsb' 0 8 = data := by
  apply BitVec.eq_of_toNat_eq
  rw [BitVec.extractLsb'_toNat, Nat.shiftRight_zero, ← BitVec.toNat_ofNat, wordOf_data hk hc ha]

end

/-- Address and data of a query's word are 0 (R102). -/
theorem extract_query_low {cpu : Nat} (hc : cpu < 2 ^ 4) : (wordOf 2 cpu 0 0).extractLsb' 0 40 = 0 := by
  apply BitVec.eq_of_toNat_eq
  rw [BitVec.extractLsb'_toNat, Nat.shiftRight_zero, wordOf_toNat (by omega) hc (by omega)]
  simp only [BitVec.toNat_zero, BitVec.ofNat_eq_ofNat]
  omega

/-- A word is made of its fields. -/
theorem wordOf_fields (w : TxnWord) :
    wordOf (w.toNat / 2 ^ 44) (w.toNat / 2 ^ 40 % 2 ^ 4) (w.toNat / 2 ^ 8 % 2 ^ 32) (BitVec.ofNat 8 w.toNat) = w := by
  have := w.isLt
  apply BitVec.eq_of_toNat_eq
  rw [wordOf_toNat (by omega) (by omega) (by omega), BitVec.toNat_ofNat]
  omega

/-! ### The two round trips -/

theorem BusEvent.wellFormed_read {c a : Nat} : BusEvent.wellFormed (.read c a) = true ↔ c < 2 ^ 4 ∧ a < 2 ^ 32 := by
  simp only [BusEvent.wellFormed, Bool.and_eq_true, decide_eq_true_eq]

theorem BusEvent.wellFormed_write {c a : Nat} {d : Byte} :
    BusEvent.wellFormed (.write c a d) = true ↔ c < 2 ^ 4 ∧ a < 2 ^ 32 := BusEvent.wellFormed_read

theorem BusEvent.wellFormed_query {c : Nat} : BusEvent.wellFormed (.query c) = true ↔ c < 2 ^ 4 := decide_eq_true_iff

theorem encodeWord_of_wellFormed {e : BusEvent} (h : e.wellFormed = true) : encodeWord e = some (eventWord e) :=
  if_pos h

/-- What does not fit the fields has no word (log entry 20). -/
theorem encodeWord_isSome (e : BusEvent) : (encodeWord e).isSome = e.wellFormed := by
  unfold encodeWord
  cases e.wellFormed <;> rfl

theorem encodeWord_eq_some {e : BusEvent} {w : TxnWord} :
    encodeWord e = some w ↔ e.wellFormed = true ∧ eventWord e = w := by
  simp [encodeWord]

theorem decodeWord_eventWord {e : BusEvent} (h : e.wellFormed = true) : decodeWord (eventWord e) = some e := by
  cases e with
  | read c a =>
    obtain ⟨hc, ha⟩ := BusEvent.wellFormed_read.1 h
    have hk : 0 < 2 ^ 4 := by decide
    simp only [eventWord, decodeWord, wordOf_kind hk hc ha, wordOf_cpu hk hc ha, wordOf_addr hk hc ha,
      wordOf_data hk hc ha, if_true]
  | write c a d =>
    obtain ⟨hc, ha⟩ := BusEvent.wellFormed_write.1 h
    have hk : 1 < 2 ^ 4 := by decide
    simp only [eventWord, decodeWord, wordOf_kind hk hc ha, wordOf_cpu hk hc ha, wordOf_addr hk hc ha,
      wordOf_data hk hc ha]
  | query c =>
    have hc := BusEvent.wellFormed_query.1 h
    have hk : 2 < 2 ^ 4 := by decide
    have ha : 0 < 2 ^ 32 := by decide
    simp only [eventWord, decodeWord, wordOf_kind hk hc ha, wordOf_cpu hk hc ha, wordOf_addr hk hc ha,
      wordOf_data hk hc ha, and_self, if_true]
  | slice => rfl
  | frame => rfl

/-- Only the word of an event that fits its fields decodes, and to that event. -/
theorem eventWord_of_decodeWord {e : BusEvent} {w : TxnWord} (h : decodeWord w = some e) :
    e.wellFormed = true ∧ eventWord e = w := by
  have hc : w.toNat / 2 ^ 40 % 2 ^ 4 < 2 ^ 4 := Nat.mod_lt _ (by decide)
  have ha : w.toNat / 2 ^ 8 % 2 ^ 32 < 2 ^ 32 := Nat.mod_lt _ (by decide)
  have fields := wordOf_fields w
  unfold decodeWord at h
  dsimp only at h
  split at h
  case h_1 hk =>
    obtain ⟨hd, he⟩ := Option.ite_none_right_eq_some.1 h
    cases he
    exact ⟨BusEvent.wellFormed_read.2 ⟨hc, ha⟩, by rwa [hk, hd] at fields⟩
  case h_2 hk =>
    cases h
    exact ⟨BusEvent.wellFormed_write.2 ⟨hc, ha⟩, by rwa [hk] at fields⟩
  case h_3 hk =>
    obtain ⟨⟨ha, hd⟩, he⟩ := Option.ite_none_right_eq_some.1 h
    cases he
    exact ⟨BusEvent.wellFormed_query.2 hc, by rwa [hk, ha, hd] at fields⟩
  case h_4 hk =>
    obtain ⟨⟨hc, ha, hd⟩, he⟩ := Option.ite_none_right_eq_some.1 h
    cases he
    exact ⟨rfl, by rwa [hk, hc, ha, hd] at fields⟩
  case h_5 hk =>
    obtain ⟨⟨hc, ha, hd⟩, he⟩ := Option.ite_none_right_eq_some.1 h
    cases he
    exact ⟨rfl, by rwa [hk, hc, ha, hd] at fields⟩
  case h_6 => cases h

theorem encodeWord_iff_decodeWord {e : BusEvent} {w : TxnWord} : encodeWord e = some w ↔ decodeWord w = some e := by
  rw [encodeWord_eq_some]
  constructor
  · rintro ⟨hwf, rfl⟩
    exact decodeWord_eventWord hwf
  · exact eventWord_of_decodeWord

/-- The five kinds of R102 are the numbers below 5. -/
theorem eventWord_kind_lt {e : BusEvent} (h : e.wellFormed = true) : ((eventWord e).extractLsb' 44 4).toNat < 5 := by
  cases e with
  | read c a =>
    obtain ⟨hc, ha⟩ := BusEvent.wellFormed_read.1 h
    rw [eventWord, extract_kind (by decide) hc ha]; decide
  | write c a d =>
    obtain ⟨hc, ha⟩ := BusEvent.wellFormed_write.1 h
    rw [eventWord, extract_kind (by decide) hc ha]; decide
  | query c =>
    have hc := BusEvent.wellFormed_query.1 h
    rw [eventWord, extract_kind (by decide) hc (by decide)]; decide
  | slice => decide
  | frame => decide

theorem decodeWord_reserved {w : TxnWord} (h : 5 ≤ (w.extractLsb' 44 4).toNat) : decodeWord w = none := by
  refine Option.eq_none_iff_forall_ne_some.2 fun e he => ?_
  obtain ⟨hwf, rfl⟩ := eventWord_of_decodeWord he
  exact absurd (eventWord_kind_lt hwf) (Nat.not_lt.2 h)

/-- A script of events that fit their words can be written in words. -/
theorem scriptOfWords_eventWord {es : List BusEvent} (h : ∀ e ∈ es, e.wellFormed = true) :
    scriptOfWords (es.map eventWord) = es.map some := by
  rw [scriptOfWords, List.map_map]
  exact List.map_congr_left fun e he => decodeWord_eventWord (h e he)

/-- Settles O7. -/
theorem transactionWord : Obligations.TransactionWord := by
  refine ⟨fun c a hc ha d => ?fields, rfl, rfl, fun e w => encodeWord_iff_decodeWord, encodeWord_isSome,
    fun w => decodeWord_reserved, rfl, fun es hes => ⟨es.map eventWord, ?words, scriptOfWords_eventWord hes⟩⟩
  case fields =>
    have h0 : 0 < 2 ^ 4 := by decide
    have h1 : 1 < 2 ^ 4 := by decide
    have h2 : 2 < 2 ^ 4 := by decide
    have hz : 0 < 2 ^ 32 := by decide
    exact ⟨_, _, _, encodeWord_of_wellFormed (BusEvent.wellFormed_read.2 ⟨hc, ha⟩),
      encodeWord_of_wellFormed (BusEvent.wellFormed_write.2 ⟨hc, ha⟩),
      encodeWord_of_wellFormed (BusEvent.wellFormed_query.2 hc),
      extract_kind h0 hc ha 0, extract_cpu h0 hc ha 0, extract_addr h0 hc ha 0, extract_data h0 hc ha 0,
      extract_kind h1 hc ha d, extract_cpu h1 hc ha d, extract_addr h1 hc ha d, extract_data h1 hc ha d,
      extract_kind h2 hc hz 0, extract_cpu h2 hc hz 0, extract_query_low hc⟩
  case words =>
    rw [List.map_map]
    exact List.map_congr_left fun e he => encodeWord_of_wellFormed (hes e he)

end Sys2Proof
end

section
/-! PROOFS. The decode key and the operands (R91, R92, R103, R120, R230): what a transaction selects, and the keys that
begin no word. -/

namespace Sys2Proof

/-! ### The selected key -/

theorem vregInstr_key (cfg : Config) (w l off : Nat) (d : Byte) : (vregInstr cfg w l off d).key = 0x93 := by
  unfold vregInstr
  split <;> rfl

/-- In each pair of direction and capability that R91 admits, the operation's key carries the capability's tag. -/
theorem capInstr_key {cfg : Config} {c off : Nat} {dir : Dir} {cap : Cap} {d : Byte} {i : Instr}
    (h : capInstr cfg c dir cap off d = some i) : i.key.toNat = decodeKey dir cap.tag := by
  cases dir <;> cases cap <;> cases h
  case write.vreg =>
    rw [vregInstr_key]
    simp only [decodeKey, Dir.bit, Cap.tag]
    decide
  all_goals
    simp only [Instr.key, decodeKey, Dir.bit, Cap.tag]
    decide

theorem openInstr_key (c : Nat) (dir : Dir) (a : Nat) (d : Byte) :
    (openInstr c dir a d).key.toNat = decodeKey dir 0x00 := by
  cases dir <;> rfl

theorem txnInstr_of_lookup {cfg : Config} {c a : Nat} {dir : Dir} {e : Entry}
    (h : lookup (cfg.map c dir) a = some e) (d : Byte) :
    txnInstr cfg c dir a d = capInstr cfg c dir e.cap (a - e.start) d := by
  rw [txnInstr, h]

theorem txnInstr_of_lookup_none {cfg : Config} {c a : Nat} {dir : Dir} (h : lookup (cfg.map c dir) a = none)
    (d : Byte) : txnInstr cfg c dir a d = some (openInstr c dir a d) := by
  rw [txnInstr, h]

theorem txnInstr_key {cfg : Config} {c a : Nat} {dir : Dir} {d : Byte} {i : Instr}
    (h : txnInstr cfg c dir a d = some i) :
    i.key.toNat = decodeKey dir (match lookup (cfg.map c dir) a with
      | some e => e.cap.tag
      | none => 0x00) := by
  cases hl : lookup (cfg.map c dir) a with
  | none =>
    rw [txnInstr_of_lookup_none hl] at h
    cases h
    exact openInstr_key c dir a d
  | some e =>
    rw [txnInstr_of_lookup hl] at h
    exact capInstr_key h

/-! ### The operands -/

theorem vregField_of_mem {cfg : Config} {l off : Nat} {layer : LayerCfg} {f : VregField}
    (hl : cfg.layers[l]? = some layer) (hf : (off, f) ∈ layer.vregLayout)
    (huniq : ∀ f', (off, f') ∈ layer.vregLayout → f' = f) : cfg.vregField l off = some f := by
  have found : (layer.vregLayout.find? fun p => p.1 == off).isSome = true :=
    List.find?_isSome.2 ⟨(off, f), hf, beq_self_eq_true off⟩
  obtain ⟨⟨off', f'⟩, hp⟩ := Option.isSome_iff_exists.1 found
  obtain rfl : off' = off := by simpa using List.find?_some hp
  obtain rfl := huniq f' (List.mem_of_find?_eq_some hp)
  simp only [Config.vregField, hl, hp, Option.map_some]

theorem vregField_of_not_mem {cfg : Config} {l off : Nat} {layer : LayerCfg} (hl : cfg.layers[l]? = some layer)
    (hf : ∀ f, (off, f) ∉ layer.vregLayout) : cfg.vregField l off = none := by
  have absent : (layer.vregLayout.find? fun p => p.1 == off) = none := by
    refine List.find?_eq_none.2 fun p hp => ?_
    obtain ⟨off', f⟩ := p
    rintro h
    obtain rfl : off' = off := by simpa using h
    exact hf f hp
  simp only [Config.vregField, hl, absent, Option.map_none]

/-! ### The reserved keys -/

/-- The keys that R92 reserves. -/
def IsReservedKey (key : Byte) : Prop :=
  (0xC0 ≤ key ∨ (0x60 ≤ key ∧ key < 0x80)) ∨ ((0x15 ≤ key ∧ key < 0x40) ∨ (0x95 ≤ key ∧ key < 0xC0))

theorem key_not_reserved (i : Instr) : ¬IsReservedKey i.key := by
  unfold IsReservedKey
  cases i
  all_goals
    simp only [Instr.key]
    decide

/-- Only an operation's key begins a word, and none of them is reserved. -/
theorem decode_of_isReservedKey {key : Byte} (h : IsReservedKey key) (bytes : List Byte) :
    decode (key :: bytes) = none := by
  refine Option.eq_none_iff_forall_ne_some.2 fun ⟨i, rest⟩ hd => ?_
  obtain ⟨-, rfl, -⟩ := isWord_of_decode hd
  exact key_not_reserved i h

end Sys2Proof

/-! The obligation's own name stands in a namespace of its own: `Sys2Proof.decodeKey` is the model's function. -/

namespace Sys2Proof.Encoding

/-- Settles O8: the key by the entry's tag, the operands by the row of R91 that the entry's capability selects. -/
theorem decodeKey : Obligations.DecodeKey := by
  refine ⟨fun cfg c dir a d i => txnInstr_key, fun cfg c a d => ?operands,
    fun key bytes h => decode_of_isReservedKey h bytes⟩
  refine ⟨fun b o => ⟨?_, ?_, ?_, ?_, ?_⟩, fun k => ⟨?_, ?_, ?_⟩, fun r => ⟨?_, ?_⟩, fun c' line bit => ?_, fun c' => ?_,
    fun c' ty => ?_, fun h => ⟨?_, ?_, ?_, ?_, ?_⟩, fun m => ⟨?_, ?_, ?_, fun p => ⟨?_, ?_, ?_⟩⟩,
    fun dev => ⟨?_, ?_, ?_⟩, fun i0 => ?_, fun l layer e hl hlook hcap => ?vreg⟩
  case vreg =>
    rw [txnInstr_of_lookup hlook, hcap]
    refine ⟨fun hf => ?_, fun f hf huniq => ?_⟩
    · simp only [capInstr, vregInstr, vregField_of_not_mem hl hf]
    · simp only [capInstr, vregInstr, vregField_of_mem hl hf huniq]
      cases f <;> rfl
  all_goals
    intro e hl hcap
    rw [txnInstr_of_lookup hl, hcap]
    rfl

end Sys2Proof.Encoding
end

section
/-! PROOFS. LAYER.DRAW pixel by pixel (R99, R258, R259, R266). -/

namespace Sys2Proof.Machine

theorem exec_layerDraw {s : State} {l : Nat} {layer : LayerCfg} (h : s.cfg.layers[l]? = some layer) (fs : Bool) :
    exec (.layerDraw l fs) s = .next (s.drawLayer l fs) :=
  Outcome.whenObject_eq_next.2 ⟨decide_eq_true (List.getElem?_eq_some_iff.1 h).1, rfl⟩

theorem pixelAt_drawLayer {s : State} {l : Nat} {layer : LayerCfg} (h : s.cfg.layers[l]? = some layer) (fs : Bool)
    {sx sy : Nat} (hx : sx < s.cfg.screenW) (hy : sy < s.cfg.screenH) :
    pixelAt (s.drawLayer l fs).fb sx sy = (s.layerPixel l layer fs sx sy).getD (pixelAt s.fb sx sy) := by
  simp only [State.drawLayer, h]
  exact pixelAt_paint s.cfg s.fb _ hx hy

/-- A transparent pen leaves the pixel; any other shows its clamped index (R266, R270). -/
theorem pixelIndex_getD (cfg : Config) (pen base color : Nat) (mode : Transp) (p : Nat) :
    (pixelIndex cfg pen base color mode).getD p =
      if mode = .pen pen then p
      else min (base + color * cfg.palette.pensPerColor + pen) (cfg.palette.paletteSize - 1) := by
  unfold pixelIndex
  split <;> rfl

theorem scrollX_eq (layer : LayerCfg) (v : VregRegs) : scrollX layer v =
    if layer.scrollxBits = 9 then
      v.scrollXlo.toNat ||| (if v.scrollXhi.getLsbD layer.scrollxHiBit then 1 else 0) <<< 8
    else v.scrollXlo.toNat := rfl

/-- Settles O42: the painted pixel is the layer's, whose index the pen of the graphic gives. -/
theorem layerDraw : Obligations.LayerDraw := by
  intro s l fs layer h
  refine ⟨_, exec_layerDraw h fs, State.unchanged_drawLayer, fun sx sy hx hy => ?_⟩
  rw [pixelAt_drawLayer h fs hx hy, State.layerPixel, pixelIndex_getD, scrollX_eq]
  rfl

end Sys2Proof.Machine
end

section
/-! PROOFS. Words that the spec shows with their meaning (R102, R103, R120): each is read by the model itself. -/

namespace Sys2Proof

/-- Settles O4: the words are fixed, so the decoders evaluate. -/
theorem decodeWords : Obligations.DecodeWords :=
  ⟨rfl, rfl, rfl, rfl, rfl, rfl, rfl, rfl, rfl, rfl, rfl, rfl, rfl, rfl⟩

end Sys2Proof
end

section
/-! PROOFS. Operations on objects that the configuration does not have (R91, R300; log entry 8): every operation looks
its object up, by a test or by reading its record, before it does anything. -/

namespace Sys2Proof.Machine

theorem Outcome.whenObject_of_eq_false {ok : Bool} (h : ok = false) (t : State) :
    Outcome.whenObject ok t = .refused .noSuchObject := by
  rw [h]; rfl

/-- The test that a numbered object exists, where it does not. -/
theorem decide_lt_eq_false {x n : Nat} (h : n ≤ x) : decide (x < n) = false := decide_eq_false (Nat.not_lt.2 h)

/-! ### The tests, where the object is absent -/

theorem hasLine_eq_false_of_absent_cpu {cfg : Config} {c : Nat} (h : cfg.cpus[c]? = none) (line : Nat) :
    cfg.hasLine c line = false := by
  simp only [Config.hasLine, h]

theorem hasLine_eq_false {cfg : Config} {c line : Nat} {cpu : CpuCfg} (hc : cfg.cpus[c]? = some cpu)
    (h : ∀ ty, (line, ty) ∉ cpu.polled) : cfg.hasLine c line = false := by
  refine Bool.eq_false_iff.2 fun ht => ?_
  obtain ⟨cpu', ty, hc', hm⟩ := hasLine_iff.1 ht
  cases hc.symm.trans hc'
  exact h ty hm

section
variable {s : State} {x : Nat}

theorem refused_of_absent_cpu (h : s.cfg.cpus.length ≤ x) (w off : Nat) (d : Byte) (t : IntType) (m : AssertMode)
    (fs : Bool) : ∀ i ∈ [Instr.rdOpen x off, .wrNmien w x d, .wrIrqclr w x t d, .intQuery x fs, .intAssert x t m,
      .intClear x t, .nmiTrigger x, .hsYield x, .wrIrqen w x off 0 d], exec i s = .refused .noSuchObject := by
  have absent : s.cfg.cpus[x]? = none := List.getElem?_eq_none h
  have noCpu : s.cfg.hasCpu x = false := decide_lt_eq_false h
  have noLine : (s.cfg.hasCpu x && s.cfg.hasType t) = false := by rw [noCpu, Bool.false_and]
  simp only [List.forall_mem_cons, List.not_mem_nil, false_implies, implies_true, and_true]
  refine ⟨?_, ?_, Outcome.whenObject_of_eq_false noLine _, Outcome.whenObject_of_eq_false noCpu _,
    Outcome.whenObject_of_eq_false noLine _, Outcome.whenObject_of_eq_false noLine _,
    Outcome.whenObject_of_eq_false noCpu _, Outcome.whenObject_of_eq_false noCpu _,
    Outcome.whenObject_of_eq_false (hasLine_eq_false_of_absent_cpu absent off) _⟩
  · simp only [exec, execRdOpen, absent]
  · simp only [exec, execWrNmien, absent]

theorem refused_of_absent_type {t : IntType} (h : s.cfg.hasType t = false) (w c : Nat) (d : Byte) (m : AssertMode) :
    ∀ i ∈ [Instr.wrIrqclr w c t d, .intAssert c t m, .intClear c t], exec i s = .refused .noSuchObject := by
  have noLine : (s.cfg.hasCpu c && s.cfg.hasType t) = false := by rw [h, Bool.and_false]
  simp only [List.forall_mem_cons, List.not_mem_nil, false_implies, implies_true, and_true]
  exact ⟨Outcome.whenObject_of_eq_false noLine _, Outcome.whenObject_of_eq_false noLine _,
    Outcome.whenObject_of_eq_false noLine _⟩

theorem refused_of_absent_bank (h : s.cfg.banks.length ≤ x) (c off : Nat) (d : Byte) :
    ∀ i ∈ [Instr.rdBank c x off, .wrBank c x off d, .wrBanksel c x d], exec i s = .refused .noSuchObject := by
  have absent : s.cfg.banks[x]? = none := List.getElem?_eq_none h
  simp only [List.forall_mem_cons, List.not_mem_nil, false_implies, implies_true, and_true]
  simp only [exec, execRdBank, execWrBank, execWrBanksel, absent, and_self]

theorem refused_of_absent_region (h : s.cfg.shared.length ≤ x) (c off : Nat) (d : Byte) :
    ∀ i ∈ [Instr.rdShared c x off, .wrShared c x off d], exec i s = .refused .noSuchObject := by
  have absent : s.cfg.shared[x]? = none := List.getElem?_eq_none h
  simp only [List.forall_mem_cons, List.not_mem_nil, false_implies, implies_true, and_true]
  simp only [exec, execRdShared, execWrShared, absent, and_self]

theorem refused_of_absent_handshake (h : s.cfg.handshakes.length ≤ x) (c : Nat) (d : Byte) :
    ∀ i ∈ [Instr.wrHsCmd c x d, .rdHsCmd c x, .wrHsRes c x d, .rdHsRes c x, .rdHsStatus c x],
      exec i s = .refused .noSuchObject := by
  have absent : s.cfg.handshakes[x]? = none := List.getElem?_eq_none h
  have test := decide_lt_eq_false h
  simp only [List.forall_mem_cons, List.not_mem_nil, false_implies, implies_true, and_true]
  simp only [exec, execWrHsCmd, execRdHsCmd, execWrHsRes, execRdHsRes, execRdHsStatus, absent,
    Outcome.whenObject_of_eq_false test, and_self]

theorem refused_of_absent_link (h : s.cfg.links.length ≤ x) (c : Nat) (p : Port) (d : Byte) :
    ∀ i ∈ [Instr.wrMcuData c x d, .rdMcuData c x, .rdMcuStatus c x, .wrMcuDdr c x p d, .wrMcuPort c x p d,
      .rdMcuPort c x p, .actLatchFromMain x, .actSendToMain x], exec i s = .refused .noSuchObject := by
  have absent : s.cfg.links[x]? = none := List.getElem?_eq_none h
  have test := decide_lt_eq_false h
  simp only [List.forall_mem_cons, List.not_mem_nil, false_implies, implies_true, and_true]
  simp only [exec, execWrMcuData, execRdMcuData, execRdMcuStatus,
    execWrMcuDdr, execWrMcuPort, execRdMcuPort, execActLatchFromMain, execActSendToMain, absent,
    Outcome.whenObject_of_eq_false test, and_self]

theorem refused_of_absent_device (h : s.cfg.sounds.length ≤ x) (c off : Nat) (d : Byte) :
    ∀ i ∈ [Instr.wrSound c x off d, .rdSound c x off, .rdSoundBusy c x], exec i s = .refused .noSuchObject := by
  have absent : s.cfg.sounds[x]? = none := List.getElem?_eq_none h
  have test := decide_lt_eq_false h
  simp only [List.forall_mem_cons, List.not_mem_nil, false_implies, implies_true, and_true]
  simp only [exec, execWrSound, execRdSound, execRdSoundBusy, absent,
    Outcome.whenObject_of_eq_false test, and_self]

theorem refused_of_absent_layer (h : s.cfg.layers.length ≤ x) (c off : Nat) (d : Byte) (fs : Bool) :
    ∀ i ∈ [Instr.wrVreg c x off d, .wrVregScrollxLo c x d, .wrVregScrollxHi c x d, .wrVregScrolly c x d,
      .wrVregBank c x d, .wrVregCtrl c x d, .tileResolve x off, .layerDraw x fs],
        exec i s = .refused .noSuchObject := by
  have absent : s.cfg.layers[x]? = none := List.getElem?_eq_none h
  have test : s.cfg.hasLayer x = false := decide_lt_eq_false h
  simp only [List.forall_mem_cons, List.not_mem_nil, false_implies, implies_true, and_true]
  simp only [exec, execWrVreg, execWrVregScrollxLo, execWrVregScrollxHi,
    execWrVregScrolly, execWrVregBank, execWrVregCtrl, execTileResolve, execLayerDraw, absent,
    Outcome.whenObject_of_eq_false test, and_self]

end

/-- Settles O16: each kind of object in turn. -/
theorem absentObjectsRefused : Obligations.AbsentObjectsRefused := by
  intro s c x off d t m p fs
  exact ⟨fun h => refused_of_absent_cpu h x off d t m fs,
    fun cpu bit hc h => Outcome.whenObject_of_eq_false (hasLine_eq_false hc h) _,
    fun h => refused_of_absent_type h x c d m, fun h => refused_of_absent_bank h c off d,
    fun h => refused_of_absent_region h c off d, fun h => refused_of_absent_handshake h c d,
    fun h => refused_of_absent_link h c p d, fun h => refused_of_absent_device h c off d,
    fun h => refused_of_absent_layer h c off d fs,
    fun h => Outcome.whenObject_of_eq_false (decide_lt_eq_false h) _⟩

end Sys2Proof.Machine
end

section
/-! PROOFS. Lookup (R121): which entry it finds, and that a checked list holds no other that covers the address. -/

namespace Sys2Proof

theorem Entry.covers_iff {e : Entry} {a : Nat} : e.covers a = true ↔ e.start ≤ a ∧ a ≤ e.stop := by
  simp only [Entry.covers, Bool.and_eq_true, decide_eq_true_eq]

theorem lookup_eq_some_iff {map : List Entry} {a : Nat} {e : Entry} : lookup map a = some e ↔
    (e.start ≤ a ∧ a ≤ e.stop) ∧ ∃ before after, map = before ++ e :: after ∧
      ∀ x ∈ before, ¬(x.start ≤ a ∧ a ≤ x.stop) := by
  simp only [lookup, List.find?_eq_some_iff_append, Bool.not_eq_true', ← Bool.not_eq_true, Entry.covers_iff]

theorem lookup_eq_none_iff {map : List Entry} {a : Nat} :
    lookup map a = none ↔ ∀ e ∈ map, ¬(e.start ≤ a ∧ a ≤ e.stop) := by
  simp only [lookup, List.find?_eq_none, Entry.covers_iff]

end Sys2Proof

namespace Sys2Proof.Machine

/-- The list is in order of `start` (R90). -/
theorem map_start_rising {cfg : Config} (h : checkConfig cfg = none) (c : Nat) (dir : Dir) :
    (cfg.map c dir).Pairwise (fun x e => x.start ≤ e.start) := by
  refine (map_pairwise h c dir).imp_of_mem fun {x y} hx _ apart => ?_
  obtain ⟨cpu, hc⟩ := cpu_of_mem_map hx
  have nonempty := (entry_in_space h hc hx).1
  omega

/-- Every entry before one that covers the address ends below that entry's start (R90), so the first is the only one. -/
theorem lookup_of_covers {cfg : Config} (h : checkConfig cfg = none) {c : Nat} {dir : Dir} {a : Nat} {e : Entry}
    (he : e ∈ cfg.map c dir) (hstart : e.start ≤ a) (hstop : a ≤ e.stop) : lookup (cfg.map c dir) a = some e := by
  obtain ⟨before, after, hmap⟩ := List.append_of_mem he
  refine lookup_eq_some_iff.2 ⟨⟨hstart, hstop⟩, before, after, hmap, fun x hx hcov => ?_⟩
  have apart := map_pairwise h c dir
  rw [hmap] at apart
  have below : x.stop < e.start := (List.pairwise_append.1 apart).2.2 x hx e List.mem_cons_self
  omega

/-- Settles O9. -/
theorem lookupFindsTheEntry : Obligations.LookupFindsTheEntry := by
  refine ⟨fun map a e hl => ?first, fun map a => lookup_eq_none_iff, fun cfg c dir h =>
    ⟨map_start_rising h c dir, fun a e => lookup_of_covers h⟩⟩
  obtain ⟨⟨hstart, hstop⟩, before, after, hmap, hbefore⟩ := lookup_eq_some_iff.1 hl
  exact ⟨before, after, hmap, hstart, hstop, hbefore⟩

end Sys2Proof.Machine
end

section
/-! PROOFS. What the reads return and the stores store (R122 to R134, R238, R239): one lemma for every read of a byte,
one for every store of a RAM byte, and each operation's equation with its byte. -/

namespace Sys2Proof.Machine

/-! ### Reading a byte -/

theorem State.whenByte_emit_read {s : State} {b off : Nat} (hb : s.cfg.hasByte b off = true) (c : Nat) :
    ∃ t, Outcome.whenByte (s.cfg.hasByte b off) (s.emit (.read c (s.memRead b off))) = .next t ∧
      t.trace = .read c (s.memRead b off) :: s.trace ∧ Unchanged s t [.trace] :=
  ⟨_, Outcome.whenByte_eq_next.2 ⟨hb, rfl⟩, rfl, unchanged_emit⟩

/-- A ROM byte is the configured image, which no state field enters (R23, R127). -/
theorem State.memRead_eq_image {s : State} {b off : Nat} {buf : BufferCfg} (hb : s.cfg.hasByte b off = true)
    (hbuf : s.cfg.buffers[b]? = some buf) (hrom : buf.kind = .rom) :
    s.memRead b off = BitVec.ofNat 8 (buf.image.apply [off]) := by
  have notRam : s.cfg.isRam b = false := by simp [Config.isRam, hbuf, hrom]
  simp only [s.memRead_rom hb notRam, Config.unwritten, hbuf, BufferCfg.imageByte]

/-- Settles O11. -/
theorem plainReads : Obligations.PlainReads := by
  intro s c b o off hb
  refine ⟨fun i hi => ?_, fun buf hbuf hrom => State.memRead_eq_image hb hbuf hrom⟩
  have read := State.whenByte_emit_read hb c
  simp only [List.mem_cons, List.not_mem_nil, or_false] at hi
  obtain rfl | rfl | rfl := hi
  · rw [exec_rdRam]; exact read
  · rw [exec_rdRom]; exact read
  · rw [exec_rdPalette]; exact read

/-! ### Storing a byte -/

/-- From s to t one byte is stored, and the layers whose tile RAM the buffer is are marked (R33, R75, R126, R237). -/
def Stores (s t : State) (b off : Nat) (d : Byte) : Prop :=
  t.memRead b off = d ∧
  (∀ b' off', (b', off') ≠ (b, off) → t.memRead b' off' = s.memRead b' off') ∧
  (∀ (l : Nat) (layer : LayerCfg), s.cfg.layers[l]? = some layer → layer.tileRam = b → t.dirtyOf l = true) ∧
  (∀ l : Nat, (∀ layer, s.cfg.layers[l]? = some layer → layer.tileRam ≠ b) → t.dirtyOf l = s.dirtyOf l) ∧
  Unchanged s t [.mem, .dirty]

theorem State.stores_storeByte {s : State} {b off : Nat} (hb : s.cfg.hasByte b off = true)
    (hr : s.cfg.isRam b = true) (d : Byte) : Stores s (s.storeByte b off d) b off d := by
  refine ⟨?stored, fun b' off' hne => ?others, fun l layer hl hon => ?marked, fun l hl => ?unmarked, unchanged_storeByte⟩
  case stored => rw [memRead_storeByte, if_pos ⟨rfl, rfl, hb, hr⟩]
  case others =>
    rw [memRead_storeByte, if_neg]
    rintro ⟨rfl, rfl, -⟩
    exact hne rfl
  case marked => rw [dirtyOf_storeByte, if_pos ((Config.mem_layersOn s.cfg b l).2 ⟨layer, hl, hon⟩)]
  case unmarked =>
    rw [dirtyOf_storeByte, if_neg]
    intro hon
    obtain ⟨layer, hlayer, htile⟩ := (Config.mem_layersOn s.cfg b l).1 hon
    exact hl layer hlayer htile

theorem State.whenByte_storeByte_ram {s : State} {b off : Nat} (hb : s.cfg.hasByte b off = true)
    (hr : s.cfg.isRam b = true) (d : Byte) :
    ∃ t, Outcome.whenByte (s.cfg.hasByte b off) (s.storeByte b off d) = .next t ∧ Stores s t b off d :=
  ⟨_, Outcome.whenByte_eq_next.2 ⟨hb, rfl⟩, stores_storeByte hb hr d⟩

/-- Settles O12. -/
theorem writeRam : Obligations.WriteRam := by
  intro s c b o off d hb hr
  rw [exec_wrRam]
  exact State.whenByte_storeByte_ram hb hr d

/-- Settles O13: each of the three stores answers with `storeByte` at the offset that its rule computes. -/
theorem windowStores : Obligations.WindowStores := by
  intro s c d i b off hi hb hr
  have store := State.whenByte_storeByte_ram hb hr d
  obtain ⟨k, woff, bank, rfl, hk, rfl, rfl⟩ | ⟨r, woff, region, rfl, hregion, rfl, rfl⟩ | ⟨o, woff, rfl, rfl⟩ := hi
  · rw [exec_wrBank hk]; exact store
  · rw [exec_wrShared hregion]; exact store
  · rw [exec_wrPalette]; exact store

/-! ### Banks -/

theorem exec_wrBanksel {s : State} {k : Nat} {bank : BankCfg} (h : s.cfg.banks[k]? = some bank) (c : Nat) (d : Byte) :
    exec (.wrBanksel c k d) s = .next (s.setBank k (d.toNat &&& bank.mask)) := by
  simp only [exec, execWrBanksel, h]

@[simp] theorem State.bankIdx_setBank_self (s : State) (k v : Nat) : (s.setBank k v).bankIdx k = v := by
  rw [bankIdx_setBank, if_pos rfl]

/-- Settles O18. -/
theorem bankSelect : Obligations.BankSelect := by
  intro s c k d bank hk
  have selected := s.bankIdx_setBank_self k (d.toNat &&& bank.mask)
  exact ⟨_, exec_wrBanksel hk c d, selected, selected.trans_le Nat.and_le_right,
    fun k' hne => by rw [State.bankIdx_setBank, if_neg hne], State.unchanged_setBank⟩

theorem execAll_cons {s t : State} {i : Instr} (h : exec i s = .next t) (is : List Instr) :
    execAll (i :: is) s = execAll is t := by
  simp only [execAll, h]

theorem execAll_pair {s t u : State} {i j : Instr} (hi : exec i s = .next t) (hj : exec j t = .next u) :
    execAll [i, j] s = .next u := by
  rw [execAll_cons hi, execAll_cons hj, execAll]

/-- The byte of the window that a bank index selects (R129). -/
theorem exec_rdBank_next {s : State} {k index off : Nat} {bank : BankCfg} (hk : s.cfg.banks[k]? = some bank)
    (hindex : s.bankIdx k = index) (hb : s.cfg.hasByte bank.region (bank.offset index off) = true) (c : Nat) :
    ∃ t, exec (.rdBank c k off) s = .next t ∧
      t.trace = .read c (s.memRead bank.region (bank.offset index off)) :: s.trace ∧ Unchanged s t [.trace] := by
  rw [exec_rdBank hk, hindex]
  exact State.whenByte_emit_read hb c

/-- Settles O17: the read after a bank select is the read in the state with the masked index. -/
theorem bankedRead : Obligations.BankedRead := by
  intro s c k off bank hk
  refine ⟨fun hb => exec_rdBank_next hk rfl hb c, fun w v hb => ?_⟩
  have selected := s.bankIdx_setBank_self k (v.toNat &&& bank.mask)
  obtain ⟨u, hread, htrace, -⟩ := exec_rdBank_next (s := s.setBank k _) hk selected hb c
  exact ⟨u, execAll_pair (exec_wrBanksel hk w v) hread, htrace⟩

/-! ### Shared memory -/

theorem exec_rdShared_next {s : State} {r x : Nat} {region : SharedCfg} (hr : s.cfg.shared[r]? = some region)
    (hb : s.cfg.hasByte region.buffer x = true) (c : Nat) :
    ∃ t, exec (.rdShared c r x) s = .next t ∧ t.trace = .read c (s.memRead region.buffer x) :: s.trace ∧
      Unchanged s t [.trace] := by
  rw [exec_rdShared hr]
  exact State.whenByte_emit_read hb c

/-- The window offset alone reaches a shared operation, not the address (R135). -/
theorem txnInstr_shared {cfg : Config} {c r x : Nat} {dir : Dir} {e : Entry}
    (hl : lookup (cfg.map c dir) (e.start + x) = some e) (hcap : e.cap = .shared r) (d : Byte) :
    txnInstr cfg c dir (e.start + x) d = some (match dir with
      | .read => .rdShared c r x
      | .write => .wrShared c r x d) := by
  rw [txnInstr_of_lookup hl, hcap, Nat.add_sub_cancel_left]
  cases dir <;> rfl

/-- Settles O19: the write leaves the configuration, so the read finds the region, and the byte just stored in it. -/
theorem sharedMemory : Obligations.SharedMemory := by
  intro s r x region hregion hb hr
  refine ⟨exec_rdShared_next hregion hb, fun cA cB eA eB v hA hcapA hB hcapB => ?_⟩
  obtain ⟨t, hwrite, hstored, -, -, -, hframe⟩ := State.whenByte_storeByte_ram hb hr v
  rw [← exec_wrShared hregion cA] at hwrite
  have hcfg : t.cfg = s.cfg := hframe .cfg (by decide)
  have htrace : t.trace = s.trace := hframe .trace (by decide)
  rw [← hcfg] at hregion hb
  obtain ⟨u, hread, hseen, -⟩ := exec_rdShared_next hregion hb cB
  rw [hstored, htrace] at hseen
  exact ⟨_, _, t, u, txnInstr_shared hA hcapA v, txnInstr_shared hB hcapB 0, hwrite, hread, hseen⟩

/-! ### Open bus -/

theorem exec_rdOpen {s : State} {c : Nat} {cpu : CpuCfg} (h : s.cfg.cpus[c]? = some cpu) (a : Nat) :
    exec (.rdOpen c a) s = .next (s.emit (.read c cpu.openBus)) := by
  simp only [exec, execRdOpen, h]

/-- Settles O10. -/
theorem openBus : Obligations.OpenBus :=
  ⟨fun _ _ a _ hc => ⟨_, exec_rdOpen hc a, rfl, State.unchanged_emit⟩, fun _ _ _ _ => rfl,
    fun _ _ _ d h => txnInstr_of_lookup_none (lookup_eq_none_iff.2 h) d,
    fun _ _ _ d h => txnInstr_of_lookup_none (lookup_eq_none_iff.2 h) d⟩

end Sys2Proof.Machine
end

section
/-! PROOFS. Sound and input (R140 to R143): what is forwarded, and what a draw returns. -/

namespace Sys2Proof.Machine

/-- The byte with one bit drawn and the others 0 (R142). -/
theorem getLsbD_bitVal_shiftLeft (b : Bool) (k : Nat) {i : Nat} (hi : i < 8) :
    (BitVec.ofNat 8 (bitVal b <<< k)).getLsbD i = (decide (i = k) && b) := by
  rw [BitVec.getLsbD_ofNat, decide_eq_true hi, Bool.true_and]
  cases b with
  | false => simp only [bitVal, Bool.false_eq_true, if_false, Nat.zero_shiftLeft, Nat.zero_testBit, Bool.and_false]
  | true => simp only [bitVal, if_true, Nat.one_shiftLeft, Nat.testBit_two_pow, eq_comm, Bool.and_true]

theorem State.unchanged_drawn_emit {s : State} {o : Obs} : Unchanged s (s.drawn.emit o) [.trace, .draws] :=
  (State.unchanged_drawn.trans State.unchanged_emit).mono (by simp)

theorem exec_wrSound {s : State} {dev : Nat} (h : dev < s.cfg.sounds.length) (c off : Nat) (d : Byte) :
    exec (.wrSound c dev off d) s = .next (s.emit (.soundWrite dev off d)) :=
  Outcome.whenObject_eq_next.2 ⟨decide_eq_true h, rfl⟩

theorem exec_rdSound {s : State} {dev : Nat} (h : dev < s.cfg.sounds.length) (c off : Nat) :
    exec (.rdSound c dev off) s = .next (s.drawn.emit (.read c (Config.drawSoundRead dev off s.draws))) :=
  Outcome.whenObject_eq_next.2 ⟨decide_eq_true h, rfl⟩

theorem exec_rdSoundBusy {s : State} {dev busyBit : Nat} (h : s.cfg.sounds[dev]? = some busyBit) (c : Nat) :
    exec (.rdSoundBusy c dev) s = .next (s.drawn.emit
      (.read c (BitVec.ofNat 8 (bitVal (Config.drawSoundBusy dev s.draws) <<< busyBit)))) := by
  simp only [exec, execRdSoundBusy, h]

theorem exec_rdInput (s : State) (c i0 off : Nat) : exec (.rdInput c i0 off) s =
    .next (s.drawn.emit (.read c (Config.drawInputPort (i0 + off) s.draws))) := rfl

/-- Settles O20. -/
theorem soundAndInput : Obligations.SoundAndInput := by
  intro s c dev off
  refine ⟨fun d h => ?write, fun h => ?read, fun busyBit h => ?busy, fun i0 => ?input⟩
  case write => exact ⟨_, exec_wrSound h c off d, rfl, State.unchanged_emit⟩
  case read => exact ⟨_, exec_rdSound h c off, rfl, rfl, State.unchanged_drawn_emit⟩
  case busy =>
    exact ⟨_, _, exec_rdSoundBusy h c, rfl, fun _ hi => getLsbD_bitVal_shiftLeft _ busyBit hi, rfl,
      State.unchanged_drawn_emit⟩
  case input => exact ⟨_, exec_rdInput s c i0 off, rfl, rfl, State.unchanged_drawn_emit⟩

end Sys2Proof.Machine
end

section
/-! PROOFS. The interrupt line controller (R161 to R169, R172): what each operation leaves on the lines, what a query
picks, and the pending-NMI property as a run of these. -/

namespace Sys2Proof.Machine

theorem hasCpu_of_getElem? {cfg : Config} {c : Nat} {cpu : CpuCfg} (h : cfg.cpus[c]? = some cpu) :
    cfg.hasCpu c = true :=
  decide_eq_true (List.getElem?_eq_some_iff.1 h).1

/-! ### One line -/

/-- From s to t the line of type ty of CPU c becomes v, and every other line is as it was. -/
def SetsLine (s t : State) (c : Nat) (ty : IntType) (v : Assert) : Prop :=
  t.asserted c ty = v ∧ ∀ c' ty', (c', ty') ≠ (c, ty) → t.asserted c' ty' = s.asserted c' ty'

theorem State.setsLine_setAsserted (s : State) (c : Nat) (ty : IntType) (v : Assert) :
    SetsLine s (s.setAsserted c ty v) c ty v := by
  refine ⟨by rw [asserted_setAsserted, if_pos ⟨rfl, rfl⟩], fun c' ty' hne => ?_⟩
  rw [asserted_setAsserted, if_neg]
  rintro ⟨rfl, rfl⟩
  exact hne rfl

theorem State.setsLine_assertLine (s : State) (c : Nat) (ty : IntType) (mode : AssertMode) :
    SetsLine s (s.assertLine c ty mode) c ty (Assert.max (s.asserted c ty) (Assert.ofMode mode)) :=
  setsLine_setAsserted ..

theorem State.setsLine_clearLine (s : State) (c : Nat) (ty : IntType) : SetsLine s (s.clearLine c ty) c ty .none :=
  setsLine_setAsserted ..

/-- The greater of what a line held and a mode, in the order NONE < PULSE < LEVEL (R163). -/
theorem Assert.max_ofMode (v : Assert) (mode : AssertMode) :
    Assert.max v (Assert.ofMode mode) = if mode = .level ∨ v = .level then .level else .pulse := by
  cases v <;> cases mode <;> rfl

theorem exec_intAssert {s : State} {c : Nat} {ty : IntType} (hc : s.cfg.hasCpu c = true)
    (ht : s.cfg.hasType ty = true) (mode : AssertMode) :
    exec (.intAssert c ty mode) s = .next (s.assertLine c ty mode) :=
  Outcome.whenObject_eq_next.2 ⟨Bool.and_eq_true_iff.2 ⟨hc, ht⟩, rfl⟩

theorem exec_intClear {s : State} {c : Nat} {ty : IntType} (hc : s.cfg.hasCpu c = true)
    (ht : s.cfg.hasType ty = true) : exec (.intClear c ty) s = .next (s.clearLine c ty) :=
  Outcome.whenObject_eq_next.2 ⟨Bool.and_eq_true_iff.2 ⟨hc, ht⟩, rfl⟩

/-- `WR.IRQCLR` is `INT.CLEAR`, the byte ignored (R166). -/
theorem exec_wrIrqclr (s : State) (w c : Nat) (ty : IntType) (d : Byte) :
    exec (.wrIrqclr w c ty d) s = exec (.intClear c ty) s := rfl

/-- Settles O23. -/
theorem assertAndClear : Obligations.AssertAndClear := by
  intro s c ty hc ht
  refine ⟨fun mode => ?assert, fun w d i hi => ?clear⟩
  case assert =>
    obtain ⟨hline, hothers⟩ := s.setsLine_assertLine c ty mode
    exact ⟨_, exec_intAssert hc ht mode, hline.trans (Assert.max_ofMode _ _), hothers, State.unchanged_assertLine⟩
  case clear =>
    have clears : exec i s = .next (s.clearLine c ty) := by
      simp only [List.mem_cons, List.not_mem_nil, or_false] at hi
      obtain rfl | rfl := hi
      · exact exec_intClear hc ht
      · rw [exec_wrIrqclr]; exact exec_intClear hc ht
    obtain ⟨hline, hothers⟩ := s.setsLine_clearLine c ty
    exact ⟨_, clears, hline, hothers, State.unchanged_clearLine⟩

/-! ### The polled enables -/

theorem exec_wrIrqen {s : State} {c line : Nat} (h : s.cfg.hasLine c line = true) (w bit : Nat) (d : Byte) :
    exec (.wrIrqen w c line bit d) s = .next (s.setIrqEn c line (d.getLsbD bit)) :=
  Outcome.whenObject_eq_next.2 ⟨h, rfl⟩

/-- Settles O21. -/
theorem interruptEnable : Obligations.InterruptEnable := by
  intro s w c line bit d cpu t hcpu hline
  refine ⟨_, exec_wrIrqen (hasLine_iff.2 ⟨cpu, t, hcpu, hline⟩) w bit d, ?flag, fun c' line' hne => ?others,
    State.unchanged_setIrqEn⟩
  case flag => rw [State.irqEn_setIrqEn, if_pos ⟨rfl, rfl⟩]
  case others =>
    rw [State.irqEn_setIrqEn, if_neg]
    rintro ⟨rfl, rfl⟩
    exact hne rfl

/-! ### The NMI latch -/

theorem exec_nmiTrigger_enabled {s : State} {c : Nat} (hc : s.cfg.hasCpu c = true) (hen : s.nmiEn c = true) :
    exec (.nmiTrigger c) s = .next (s.assertLine c .nmi .pulse) :=
  Outcome.whenObject_eq_next.2 ⟨hc, by rw [State.triggerNmi, if_pos hen]⟩

theorem exec_nmiTrigger_disabled {s : State} {c : Nat} (hc : s.cfg.hasCpu c = true) (hen : s.nmiEn c = false) :
    exec (.nmiTrigger c) s = .next (s.setNmiPending c true) :=
  Outcome.whenObject_eq_next.2 ⟨hc, by rw [State.triggerNmi, hen, if_neg Bool.false_ne_true]⟩

@[simp] theorem State.nmiPending_setNmiPending_self (s : State) (c : Nat) (v : Bool) :
    (s.setNmiPending c v).nmiPending c = v := by
  rw [nmiPending_setNmiPending, if_pos rfl]

/-- Settles O24: by whether NMIs are enabled. -/
theorem nmiTrigger : Obligations.NmiTrigger := by
  intro s c hc
  cases hen : s.nmiEn c with
  | true =>
    obtain ⟨hline, hothers⟩ := s.setsLine_assertLine c .nmi .pulse
    exact ⟨_, exec_nmiTrigger_enabled hc hen, fun _ => ⟨hline, hothers, State.unchanged_assertLine⟩, nofun⟩
  | false =>
    exact ⟨_, exec_nmiTrigger_disabled hc hen, nofun, fun _ => ⟨s.nmiPending_setNmiPending_self c true,
      fun c' hne => by rw [State.nmiPending_setNmiPending, if_neg hne], State.unchanged_setNmiPending⟩⟩

/-- Enabling NMIs with one pending: the latch is cleared and one pulse asserted (R162). -/
def State.releaseNmi (s : State) (c : Nat) : State :=
  ((s.setNmiEn c true).setNmiPending c false).assertLine c .nmi .pulse

theorem exec_wrNmien_release {s : State} {c : Nat} {d : Byte} {cpu : CpuCfg} (hcpu : s.cfg.cpus[c]? = some cpu)
    (hbit : d.getLsbD cpu.nmienBit = true) (hpend : s.nmiPending c = true) (w : Nat) :
    exec (.wrNmien w c d) s = .next (s.releaseNmi c) := by
  simp only [exec, execWrNmien, hcpu, bitOf, hbit, hpend, Bool.and_self, if_true, State.releaseNmi]

theorem exec_wrNmien_plain {s : State} {c : Nat} {d : Byte} {cpu : CpuCfg} (hcpu : s.cfg.cpus[c]? = some cpu)
    (h : ¬(d.getLsbD cpu.nmienBit = true ∧ s.nmiPending c = true)) (w : Nat) :
    exec (.wrNmien w c d) s = .next (s.setNmiEn c (d.getLsbD cpu.nmienBit)) := by
  simp only [exec, execWrNmien, hcpu, bitOf, Bool.and_eq_true, if_neg h]

theorem State.nmiEn_releaseNmi (s : State) (c c' : Nat) :
    (s.releaseNmi c).nmiEn c' = if c' = c then true else s.nmiEn c' := by
  rw [releaseNmi, nmiEn_assertLine, nmiEn_setNmiPending, nmiEn_setNmiEn]

theorem State.nmiPending_releaseNmi (s : State) (c c' : Nat) :
    (s.releaseNmi c).nmiPending c' = if c' = c then false else s.nmiPending c' := by
  rw [releaseNmi, nmiPending_assertLine, nmiPending_setNmiPending, nmiPending_setNmiEn]

theorem State.setsLine_releaseNmi (s : State) (c : Nat) :
    SetsLine s (s.releaseNmi c) c .nmi (Assert.max (s.asserted c .nmi) .pulse) := by
  simpa only [releaseNmi, SetsLine, asserted_setNmiPending, asserted_setNmiEn, Assert.ofMode] using
    ((s.setNmiEn c true).setNmiPending c false).setsLine_assertLine c .nmi .pulse

theorem State.unchanged_releaseNmi {s : State} {c : Nat} :
    Unchanged s (s.releaseNmi c) [.nmiEn, .nmiPending, .asserted] :=
  (State.unchanged_setNmiEn.trans State.unchanged_setNmiPending).trans State.unchanged_assertLine

/-- Settles O22: by whether the write releases a pending NMI. -/
theorem nmiEnable : Obligations.NmiEnable := by
  intro s w c d cpu hcpu
  by_cases h : d.getLsbD cpu.nmienBit = true ∧ s.nmiPending c = true
  case pos =>
    obtain ⟨hbit, hpend⟩ := h
    obtain ⟨hline, hothers⟩ := s.setsLine_releaseNmi c
    refine ⟨_, exec_wrNmien_release hcpu hbit hpend w, ?enable, fun c' hne => ⟨?_, ?_⟩,
      fun _ _ => ⟨?latch, hline, hothers, State.unchanged_releaseNmi⟩, fun hnot => absurd ⟨hbit, hpend⟩ hnot⟩
    case enable => rw [State.nmiEn_releaseNmi, if_pos rfl, hbit]
    case latch => rw [State.nmiPending_releaseNmi, if_pos rfl]
    · rw [State.nmiEn_releaseNmi, if_neg hne]
    · rw [State.nmiPending_releaseNmi, if_neg hne]
  case neg =>
    refine ⟨_, exec_wrNmien_plain hcpu h w, ?enable, fun c' hne => ⟨?_, State.nmiPending_setNmiEn ..⟩,
      fun hbit hpend => absurd ⟨hbit, hpend⟩ h, fun _ => State.unchanged_setNmiEn⟩
    case enable => rw [State.nmiEn_setNmiEn, if_pos rfl]
    · rw [State.nmiEn_setNmiEn, if_neg hne]

/-! ### Queries -/

theorem State.candidate_iff {s : State} {c : Nat} {cpu : CpuCfg} (hcpu : s.cfg.cpus[c]? = some cpu) (early : Bool)
    (ty : IntType) : s.candidate c early ty = true ↔
      (early = false ∧ ∃ line, (line, ty) ∈ cpu.polled ∧ s.irqEn c line = true) ∨ s.asserted c ty ≠ .none := by
  simp only [State.candidate, hcpu, Bool.or_eq_true, Bool.and_eq_true, Bool.not_eq_true', List.any_eq_true,
    beq_iff_eq, decide_eq_true_eq, Prod.exists]
  constructor
  · rintro (⟨hearly, line, _, hmem, rfl, hen⟩ | hline)
    · exact .inl ⟨hearly, line, hmem, hen⟩
    · exact .inr hline
  · rintro (⟨hearly, line, hmem, hen⟩ | hline)
    · exact .inl ⟨hearly, line, ty, hmem, rfl, hen⟩
    · exact .inr hline

theorem State.pickInterrupt_eq_none_iff {s : State} {c : Nat} {early : Bool} :
    s.pickInterrupt c early = none ↔ ∀ ty ∈ s.cfg.intPriority, ¬s.candidate c early ty = true :=
  List.find?_eq_none

/-- The pick is the candidate that no candidate precedes in `INT_PRIORITY` (R168). -/
theorem State.pickInterrupt_of_append {s : State} {c : Nat} {early : Bool} {higher lower : List IntType} {ty : IntType}
    (hsplit : s.cfg.intPriority = higher ++ ty :: lower) (hhigher : ∀ u ∈ higher, ¬s.candidate c early u = true)
    (hty : s.candidate c early ty = true) : s.pickInterrupt c early = some ty := by
  rw [pickInterrupt, hsplit, List.find?_append, List.find?_eq_none.2 hhigher, Option.none_or,
    List.find?_cons_of_pos hty]

theorem State.candidate_of_pickInterrupt {s : State} {c : Nat} {early : Bool} {ty : IntType}
    (h : s.pickInterrupt c early = some ty) : s.candidate c early ty = true :=
  List.find?_some (p := s.candidate c early) h

theorem exec_intQuery {s : State} {c : Nat} (hc : s.cfg.hasCpu c = true) (early : Bool) :
    exec (.intQuery c early) s = .next (s.query c early) :=
  Outcome.whenObject_eq_next.2 ⟨hc, rfl⟩

theorem State.trace_query (s : State) (c : Nat) (early : Bool) :
    (s.query c early).trace = .interrupt c (s.pickInterrupt c early) :: s.trace := by
  obtain ⟨v, hv⟩ := s.query_shape c early
  rw [hv]

theorem State.query_of_none {s : State} {c : Nat} {early : Bool} (h : s.pickInterrupt c early = none) :
    s.query c early = s.emit (.interrupt c none) := by
  rw [State.query, h]

/-- A query changes at most the line it delivers, whose PULSE it clears (R167). -/
theorem State.setsLine_query {s : State} {c : Nat} {early : Bool} {ty : IntType}
    (h : s.pickInterrupt c early = some ty) :
    SetsLine s (s.query c early) c ty (if s.asserted c ty = .pulse then .none else s.asserted c ty) := by
  refine ⟨by simp only [asserted_query, h, true_and], fun c' ty' hne => ?_⟩
  rw [asserted_query, if_neg]
  rintro ⟨rfl, hpick, -⟩
  cases h.symm.trans hpick
  exact hne rfl

/-- Settles O25: by whether the query picks a type. -/
theorem query : Obligations.Query := by
  intro s c early cpu hcpu cand
  have hcand : ∀ ty, s.candidate c early ty = true ↔ cand ty := State.candidate_iff hcpu early
  have runs := exec_intQuery (hasCpu_of_getElem? hcpu) early
  refine ⟨fun hnone => ?none, fun higher ty lower hsplit hhigher hty => ?some⟩
  case none =>
    have pick := State.pickInterrupt_eq_none_iff.2 fun ty hmem => mt (hcand ty).1 (hnone ty hmem)
    rw [State.query_of_none pick] at runs
    exact ⟨_, runs, rfl, State.unchanged_emit⟩
  case some =>
    have pick := State.pickInterrupt_of_append hsplit (fun u hu => mt (hcand u).1 (hhigher u hu)) ((hcand ty).2 hty)
    obtain ⟨hline, hothers⟩ := State.setsLine_query pick
    exact ⟨_, runs, by rw [State.trace_query, pick], hline, hothers, State.unchanged_query.mono (by simp)⟩

/-! ### The pending-NMI property (R172) -/

theorem execAll_append {s t : State} {is : List Instr} (h : execAll is s = .next t) (js : List Instr) :
    execAll (is ++ js) s = execAll js t := by
  induction is generalizing s with
  | nil => cases h; rfl
  | cons i is ih =>
    rw [execAll] at h
    split at h
    next hi => rw [List.cons_append, execAll_cons hi, ih h]
    all_goals cases h

/-- While NMIs are disabled, triggers set the one-deep latch, and nothing else (R165). -/
theorem execAll_nmiTriggers_disabled {s : State} {c : Nat} (hc : s.cfg.hasCpu c = true) (hen : s.nmiEn c = false)
    (n : Nat) : ∃ t, execAll (List.replicate n (.nmiTrigger c)) s = .next t ∧ Unchanged s t [.nmiPending] ∧
      t.nmiPending c = if n = 0 then s.nmiPending c else true := by
  induction n generalizing s with
  | zero => exact ⟨s, rfl, .refl, rfl⟩
  | succ n ih =>
    obtain ⟨t, hrun, hframe, hpend⟩ := ih (s := s.setNmiPending c true) hc (by rw [State.nmiEn_setNmiPending, hen])
    refine ⟨t, ?_, (State.unchanged_setNmiPending.trans hframe).mono (by simp), ?_⟩
    · rw [List.replicate_succ, execAll_cons (exec_nmiTrigger_disabled hc hen), hrun]
    · rw [hpend, State.nmiPending_setNmiPending_self, ite_self, if_neg n.succ_ne_zero]

/-- An enable after n triggers leaves one PULSE where n is at least 1, and delivers nothing itself. -/
theorem execAll_triggers_enable {s : State} {c : Nat} {d : Byte} {cpu : CpuCfg} (hcpu : s.cfg.cpus[c]? = some cpu)
    (hen : s.nmiEn c = false) (hpend : s.nmiPending c = false) (hline : s.asserted c .nmi = .none)
    (hbit : d.getLsbD cpu.nmienBit = true) (w n : Nat) :
    ∃ t, execAll (List.replicate n (.nmiTrigger c) ++ [.wrNmien w c d]) s = .next t ∧
      t.asserted c .nmi = (if n = 0 then .none else .pulse) ∧ t.nmiPending c = false ∧ t.nmiEn c = true ∧
      Unchanged s t [.nmiEn, .nmiPending, .asserted] := by
  obtain ⟨m, hrun, hframe, hm⟩ := execAll_nmiTriggers_disabled (hasCpu_of_getElem? hcpu) hen n
  have hcfg : m.cfg = s.cfg := hframe .cfg (by decide)
  have hnone : m.asserted c .nmi = .none := (hframe .asserted (by decide) c .nmi).trans hline
  obtain ⟨t, henable, hten, -, hrelease, hplain⟩ := nmiEnable m w c d cpu (hcfg ▸ hcpu)
  refine ⟨t, by rw [execAll_append hrun, execAll_cons henable, execAll], ?_⟩
  by_cases hn : n = 0
  · rw [if_pos hn, hpend] at hm
    have kept := hplain (by simp [hm])
    rw [if_pos hn]
    exact ⟨(kept .asserted (by decide) c .nmi).trans hnone, (kept .nmiPending (by decide) c).trans hm,
      hten.trans hbit, (hframe.trans kept).mono (by simp)⟩
  · rw [if_neg hn] at hm
    obtain ⟨hcleared, hpulse, -, kept⟩ := hrelease hbit hm
    rw [if_neg hn]
    exact ⟨by rw [hpulse, hnone]; rfl, hcleared, hten.trans hbit, (hframe.trans kept).mono (by simp)⟩

/-- Where no polled line offers NMI, only an asserted NMI is a candidate. -/
theorem State.candidate_nmi_iff {s : State} {c : Nat} {cpu : CpuCfg} (hcpu : s.cfg.cpus[c]? = some cpu)
    (hpolled : ∀ line, (line, IntType.nmi) ∉ cpu.polled) (early : Bool) :
    s.candidate c early .nmi = true ↔ s.asserted c .nmi ≠ .none := by
  simp only [candidate_iff hcpu, hpolled, false_and, exists_false, and_false, false_or]

/-- A query delivers no NMI while none is asserted, and asserts none. -/
theorem State.query_of_no_nmi {s : State} {c : Nat} {cpu : CpuCfg} (hcpu : s.cfg.cpus[c]? = some cpu)
    (hpolled : ∀ line, (line, IntType.nmi) ∉ cpu.polled) (hline : s.asserted c .nmi = .none) (early : Bool) :
    (s.query c early).asserted c .nmi = .none ∧
      (s.query c early).trace.count (.interrupt c (some .nmi)) = s.trace.count (.interrupt c (some .nmi)) := by
  have notPicked : s.pickInterrupt c early ≠ some .nmi := fun h =>
    (candidate_nmi_iff hcpu hpolled early).1 (candidate_of_pickInterrupt h) hline
  refine ⟨by rw [asserted_query, hline, ite_self], ?_⟩
  rw [trace_query, List.count_cons_of_ne fun h => notPicked (Obs.interrupt.inj h).2]

/-- A query delivers a pulsed NMI, the greatest type, and clears it. -/
theorem State.query_of_nmi_pulse {s : State} {c : Nat} {cpu : CpuCfg} {lower : List IntType}
    (hcpu : s.cfg.cpus[c]? = some cpu) (hprio : s.cfg.intPriority = .nmi :: lower)
    (hline : s.asserted c .nmi = .pulse) (early : Bool) :
    (s.query c early).asserted c .nmi = .none ∧
      (s.query c early).trace.count (.interrupt c (some .nmi)) = s.trace.count (.interrupt c (some .nmi)) + 1 := by
  have cand : s.candidate c early .nmi = true := (candidate_iff hcpu early .nmi).2 (.inr (by rw [hline]; decide))
  have pick := pickInterrupt_of_append (higher := []) hprio nofun cand
  refine ⟨by rw [(setsLine_query pick).1, if_pos hline], ?_⟩
  rw [trace_query, pick, List.count_cons_self]

theorem State.cfg_query (s : State) (c : Nat) (early : Bool) : (s.query c early).cfg = s.cfg :=
  State.unchanged_query .cfg (by decide)

theorem execAll_queries_of_no_nmi {s : State} {c : Nat} {cpu : CpuCfg} (hcpu : s.cfg.cpus[c]? = some cpu)
    (hpolled : ∀ line, (line, IntType.nmi) ∉ cpu.polled) (hline : s.asserted c .nmi = .none) (q : Nat) :
    ∃ u, execAll (List.replicate q (.intQuery c false)) s = .next u ∧
      u.trace.count (.interrupt c (some .nmi)) = s.trace.count (.interrupt c (some .nmi)) := by
  induction q generalizing s with
  | zero => exact ⟨s, rfl, rfl⟩
  | succ q ih =>
    obtain ⟨hstays, hcount⟩ := State.query_of_no_nmi hcpu hpolled hline false
    obtain ⟨u, hrun, hrest⟩ := ih (s.cfg_query c false ▸ hcpu) hstays
    refine ⟨u, ?_, hrest.trans hcount⟩
    rw [List.replicate_succ, execAll_cons (exec_intQuery (hasCpu_of_getElem? hcpu) false), hrun]

/-- Of the queries after a pulse the first delivers NMI, and no other does. -/
theorem execAll_queries_of_nmi_pulse {s : State} {c : Nat} {cpu : CpuCfg} {lower : List IntType}
    (hcpu : s.cfg.cpus[c]? = some cpu) (hprio : s.cfg.intPriority = .nmi :: lower)
    (hpolled : ∀ line, (line, IntType.nmi) ∉ cpu.polled) (hline : s.asserted c .nmi = .pulse) (q : Nat) :
    ∃ u, execAll (List.replicate q (.intQuery c false)) s = .next u ∧
      u.trace.count (.interrupt c (some .nmi)) =
        s.trace.count (.interrupt c (some .nmi)) + (if q = 0 then 0 else 1) := by
  cases q with
  | zero => exact ⟨s, rfl, rfl⟩
  | succ q =>
    obtain ⟨hcleared, hcount⟩ := State.query_of_nmi_pulse hcpu hprio hline false
    obtain ⟨u, hrun, hrest⟩ := execAll_queries_of_no_nmi (s.cfg_query c false ▸ hcpu) hpolled hcleared q
    refine ⟨u, ?_, by rw [hrest, hcount, if_neg q.succ_ne_zero]⟩
    rw [List.replicate_succ, execAll_cons (exec_intQuery (hasCpu_of_getElem? hcpu) false), hrun]

/-- Settles O26: the enable leaves one PULSE or none, and the queries deliver it once or never. -/
theorem pendingNmi : Obligations.PendingNmi := by
  intro s w c n q d cpu lower hcpu hprio hpolled hen hpend hline hbit
  obtain ⟨t, hrun, htline, htpend, hten, hframe⟩ := execAll_triggers_enable hcpu hen hpend hline hbit w n
  have hcfg : t.cfg = s.cfg := hframe .cfg (by decide)
  have htrace : t.trace = s.trace := hframe .trace (by decide)
  rw [← hcfg] at hcpu hprio
  by_cases hn : n = 0
  · obtain ⟨u, hqueries, hcount⟩ := execAll_queries_of_no_nmi hcpu hpolled (htline.trans (if_pos hn)) q
    exact ⟨t, u, hrun, htline, htpend, hten, hqueries, by rw [hcount, htrace, if_pos (.inl hn), Nat.add_zero]⟩
  · obtain ⟨u, hqueries, hcount⟩ := execAll_queries_of_nmi_pulse hcpu hprio hpolled (htline.trans (if_neg hn)) q
    exact ⟨t, u, hrun, htline, htpend, hten, hqueries, by simp only [hcount, htrace, hn, false_or]⟩

end Sys2Proof.Machine
end

section
/-! PROOFS. The latch handshake (R190 to R196, R199): what each operation leaves in the handshake's registers, the
effect of a command, and the round trip of a command as a write and reads of it. -/

namespace Sys2Proof.Machine

/-! ### The registers of a handshake after a write -/

theorem State.hsOf_setHs_ne (s : State) {h h' : Nat} (hne : h' ≠ h) (v : HsRegs) :
    (s.setHs h v).hsOf h' = s.hsOf h' := by
  rw [hsOf_setHs, if_neg hne]

theorem State.hsOf_clearOpt (s : State) (r : Option LineRef) (h : Nat) : (s.clearOpt r).hsOf h = s.hsOf h :=
  State.unchanged_clearOpt .hs (by decide) h

/-! ### The result byte, the status byte and the yield -/

/-- The result byte stored, pending for the primary (R192). -/
def State.storeResult (s : State) (h : Nat) (d : Byte) : State :=
  s.setHs h { s.hsOf h with res := d, pend := withPend (s.hsOf h).pend 1 true }

/-- The result taken: no longer pending for the primary (R193). -/
def State.takeResult (s : State) (h : Nat) : State :=
  s.setHs h { s.hsOf h with pend := withPend (s.hsOf h).pend 1 false }

theorem exec_wrHsRes {s : State} {h : Nat} (hh : h < s.cfg.handshakes.length) (c : Nat) (d : Byte) :
    exec (.wrHsRes c h d) s = .next (s.storeResult h d) :=
  Outcome.whenObject_eq_next.2 ⟨decide_eq_true hh, rfl⟩

theorem exec_rdHsRes {s : State} {h : Nat} (hh : h < s.cfg.handshakes.length) (w : Nat) :
    exec (.rdHsRes w h) s = .next ((s.takeResult h).emit (.read w (s.hsOf h).res)) :=
  Outcome.whenObject_eq_next.2 ⟨decide_eq_true hh, rfl⟩

theorem State.hsOf_storeResult (s : State) (h : Nat) (d : Byte) :
    (s.storeResult h d).hsOf h = { s.hsOf h with res := d, pend := withPend (s.hsOf h).pend 1 true } :=
  hsOf_setHs_self ..

theorem State.hsOf_takeResult (s : State) (h : Nat) :
    (s.takeResult h).hsOf h = { s.hsOf h with pend := withPend (s.hsOf h).pend 1 false } :=
  hsOf_setHs_self ..

/-- Settles O29. -/
theorem resultByte : Obligations.ResultByte := by
  intro s c h hh
  refine ⟨fun d => ?write, ?read⟩
  case write =>
    obtain ⟨set, kept⟩ := withPend_one (s.hsOf h).pend true
    refine ⟨_, exec_wrHsRes hh c d, ?_, ?_, ?_, ?_, fun h' hne => s.hsOf_setHs_ne hne _, State.unchanged_setHs⟩
    all_goals rw [State.hsOf_storeResult]
    · exact set
    · exact kept
  case read =>
    obtain ⟨cleared, kept⟩ := withPend_one (s.hsOf h).pend false
    refine ⟨_, exec_rdHsRes hh c, rfl, ?_, ?_, ?_, ?_, fun h' hne => s.hsOf_setHs_ne hne _,
      (State.unchanged_setHs.trans State.unchanged_emit).mono (by simp)⟩
    all_goals rw [State.hsOf_emit, State.hsOf_takeResult]
    · exact cleared
    · exact kept

theorem exec_rdHsStatus {s : State} {h : Nat} {hc : HandshakeCfg} (hh : s.cfg.handshakes[h]? = some hc) (c : Nat) :
    exec (.rdHsStatus c h) s = .next (s.emit (.read c (hsStatus (s.hsOf h).pend hc.invertMask))) := by
  simp only [exec, execRdHsStatus, hh]

/-- Under the invert mask, the status byte is six zero bits and the two pending bits (R94). -/
theorem hsStatus_xor_invertMask (pend : BitVec 2) (mask : Byte) : hsStatus pend mask ^^^ mask = 0#6 ++ pend := by
  rw [hsStatus, BitVec.xor_assoc, BitVec.xor_self, BitVec.xor_zero]
  revert pend
  decide

/-- Settles O30. -/
theorem handshakeStatus : Obligations.HandshakeStatus := by
  intro s c h hc hh
  exact ⟨_, _, exec_rdHsStatus hh c, rfl, hsStatus_xor_invertMask _ _, State.unchanged_emit⟩

theorem exec_hsYield {s : State} {w : Nat} (hw : s.cfg.hasCpu w = true) :
    exec (.hsYield w) s = .next (s.yield w) :=
  Outcome.whenObject_eq_next.2 ⟨hw, rfl⟩

/-- Settles O31. -/
theorem yield : Obligations.Yield := by
  intro s w hw
  exact ⟨_, exec_hsYield hw, rfl, State.unchanged_yield⟩

/-! ### Writing a command -/

/-- The command byte stored, pending for the secondary: what `WR.HS_CMD` does before its effect (R190). -/
def State.storeCommand (s : State) (h : Nat) (d : Byte) : State :=
  s.setHs h { s.hsOf h with cmd := d, pend := withPend (s.hsOf h).pend 0 true }

/-- `HS.YIELD` where delivery is synchronous (R190). -/
def State.yieldIf (s : State) (w : Nat) (sync : Bool) : State := if sync then s.yield w else s

theorem exec_wrHsCmd {s : State} {h : Nat} {hc : HandshakeCfg} (hh : s.cfg.handshakes[h]? = some hc) (w : Nat)
    (d : Byte) : exec (.wrHsCmd w h d) s =
      .next (((s.storeCommand h d).commandEffect hc.cmdEffect).yieldIf w hc.syncDelivery) := by
  simp only [exec, execWrHsCmd, hh, State.storeCommand, State.yieldIf]

theorem State.hsOf_storeCommand (s : State) (h : Nat) (d : Byte) :
    (s.storeCommand h d).hsOf h = { s.hsOf h with cmd := d, pend := withPend (s.hsOf h).pend 0 true } :=
  hsOf_setHs_self ..

theorem State.unchanged_storeCommand {s : State} {h : Nat} {d : Byte} : Unchanged s (s.storeCommand h d) [.hs] :=
  State.unchanged_setHs

theorem State.yieldReq_yieldIf (s : State) (w : Nat) (sync : Bool) :
    (s.yieldIf w sync).yieldReq = (s.yieldReq || sync) := by
  cases sync with
  | false => exact (Bool.or_false _).symm
  | true => exact (Bool.or_true _).symm

theorem State.unchanged_yieldIf {s : State} {w : Nat} {sync : Bool} : Unchanged s (s.yieldIf w sync) [.yieldReq] := by
  cases sync with
  | false => exact .refl
  | true => exact State.unchanged_yield (w := w)

theorem State.triggerNmi_of_enabled {s : State} {c : Nat} (hen : s.nmiEn c = true) :
    s.triggerNmi c = s.assertOpt (some ⟨c, .nmi, .pulse⟩) := by
  rw [triggerNmi, if_pos hen, assertOpt]

theorem State.triggerNmi_of_disabled {s : State} {c : Nat} (hen : s.nmiEn c = false) :
    s.triggerNmi c = s.setNmiPending c true := by
  rw [triggerNmi, hen, if_neg Bool.false_ne_true]

/-- A write of a command whose effect changes the parts ps changes those, the handshakes and the yield request. -/
theorem Unchanged.writeCommand {s t : State} {h w : Nat} {d : Byte} {sync : Bool} {ps : List Part}
    (effect : Unchanged (s.storeCommand h d) t ps) : Unchanged s (t.yieldIf w sync) ([.hs, .yieldReq] ++ ps) :=
  ((State.unchanged_storeCommand.trans effect).trans State.unchanged_yieldIf).mono fun p hp => by
    simp only [List.mem_append, List.mem_cons, List.not_mem_nil, or_false] at hp ⊢
    tauto

/-- Settles O27: the registers are those of the stored command, and each effect in turn gives the lines. -/
theorem writeCommand : Obligations.WriteCommand := by
  intro s w h d hc hh
  have yields (u : State) := State.unchanged_yieldIf (s := u) (w := w) (sync := hc.syncDelivery)
  have effect := State.unchanged_commandEffect (s := s.storeCommand h d) (e := hc.cmdEffect)
  have stored : ∀ h', (((s.storeCommand h d).commandEffect hc.cmdEffect).yieldIf w hc.syncDelivery).hsOf h' =
      (s.storeCommand h d).hsOf h' := fun h' => (yields _ .hs (by decide) h').trans (effect .hs (by decide) h')
  obtain ⟨set, kept⟩ := withPend_zero (s.hsOf h).pend true
  refine ⟨_, exec_wrHsCmd hh w d, ?_, ?_, ?_, ?_, fun h' hne => (stored h').trans (s.hsOf_setHs_ne hne _), ?yields,
    fun he => ?none, fun a he => ?assert, fun c he => ⟨fun hen => ?nmiEnabled, fun hen => ?nmiDisabled⟩⟩
  case yields => rw [State.yieldReq_yieldIf, effect .yieldReq (by decide)]; rfl
  case none => rw [he]; exact Unchanged.writeCommand (ps := []) .refl
  case assert =>
    rw [he]
    exact ⟨fun c ty => (yields _ .asserted (by decide) c ty).trans (State.asserted_assertOpt _ a c ty),
      State.unchanged_assertLine.writeCommand⟩
  case nmiEnabled =>
    rw [he, State.commandEffect, State.triggerNmi_of_enabled (s := s.storeCommand h d) hen]
    exact ⟨fun c' ty => (yields _ .asserted (by decide) c' ty).trans (State.asserted_assertOpt _ _ c' ty),
      State.unchanged_assertOpt.writeCommand⟩
  case nmiDisabled =>
    rw [he, State.commandEffect, State.triggerNmi_of_disabled (s := s.storeCommand h d) hen]
    refine ⟨fun c' => (yields _ .nmiPending (by decide) c').trans ?_, State.unchanged_setNmiPending.writeCommand⟩
    rw [State.nmiPending_setNmiPending, State.unchanged_storeCommand .nmiPending (by decide) c']
    by_cases hcc : c' = c
    · rw [if_pos hcc, decide_eq_true hcc, Bool.or_true]
    · rw [if_neg hcc, decide_eq_false hcc, Bool.or_false]
  all_goals rw [stored, State.hsOf_storeCommand]
  · exact set
  · exact kept

/-! ### Reading a command -/

/-- The command taken: no longer pending for the secondary, and the line of `CMD_READ_CLEAR` cleared (R191). -/
def State.takeCommand (s : State) (h : Nat) (hc : HandshakeCfg) : State :=
  (s.setHs h { s.hsOf h with pend := withPend (s.hsOf h).pend 0 false }).clearOpt hc.cmdReadClear

theorem exec_rdHsCmd {s : State} {h : Nat} {hc : HandshakeCfg} (hh : s.cfg.handshakes[h]? = some hc) (c : Nat) :
    exec (.rdHsCmd c h) s = .next ((s.takeCommand h hc).emit (.read c (s.hsOf h).cmd)) := by
  simp only [exec, execRdHsCmd, hh, State.takeCommand]

theorem State.hsOf_takeCommand (s : State) (h : Nat) (hc : HandshakeCfg) (h' : Nat) :
    (s.takeCommand h hc).hsOf h' =
      if h' = h then { s.hsOf h with pend := withPend (s.hsOf h).pend 0 false } else s.hsOf h' := by
  rw [takeCommand, hsOf_clearOpt, hsOf_setHs]

theorem State.asserted_takeCommand (s : State) (h : Nat) (hc : HandshakeCfg) (c : Nat) (ty : IntType) :
    (s.takeCommand h hc).asserted c ty = if hc.cmdReadClear = some ⟨c, ty⟩ then .none else s.asserted c ty := by
  rw [takeCommand, asserted_clearOpt, asserted_setHs]

theorem State.unchanged_takeCommand {s : State} {h : Nat} {hc : HandshakeCfg} :
    Unchanged s (s.takeCommand h hc) [.hs, .asserted] :=
  State.unchanged_setHs.trans State.unchanged_clearOpt

/-- Settles O28. -/
theorem readCommand : Obligations.ReadCommand := by
  intro s c h hc hh
  obtain ⟨cleared, kept⟩ := withPend_zero (s.hsOf h).pend false
  refine ⟨_, exec_rdHsCmd hh c, ?trace, ?_, ?_, ?_, ?_, fun h' hne => ?others, s.asserted_takeCommand h hc,
    (State.unchanged_takeCommand.trans State.unchanged_emit).mono (by simp)⟩
  case trace => rw [State.emit_trace, State.unchanged_takeCommand .trace (by decide)]
  case others => rw [State.hsOf_emit, State.hsOf_takeCommand, if_neg hne]
  all_goals rw [State.hsOf_emit, State.hsOf_takeCommand, if_pos rfl]
  · exact cleared
  · exact kept

/-! ### The round trip (R199) -/

/-- The command of h has been read since it was last written: its bit is clear, and so is the line of
`CMD_READ_CLEAR`. -/
def State.CommandRead (s : State) (h : Nat) (hc : HandshakeCfg) : Prop :=
  (s.hsOf h).pend.getLsbD 0 = false ∧ ∀ c ty, hc.cmdReadClear = some ⟨c, ty⟩ → s.asserted c ty = .none

theorem withPend_zero_of_clear (p : BitVec 2) (hp : p.getLsbD 0 = false) : withPend p 0 false = p := by
  revert p; decide

/-- Taking a command that has been read changes nothing (D18). -/
theorem State.CommandRead.unchanged_takeCommand {s : State} {h : Nat} {hc : HandshakeCfg} (hread : s.CommandRead h hc) :
    Unchanged s (s.takeCommand h hc) [] := by
  obtain ⟨hbit, hline⟩ := hread
  intro p _
  by_cases hp : p ∈ [Part.hs, .asserted]
  · simp only [List.mem_cons, List.not_mem_nil, or_false] at hp
    obtain rfl | rfl := hp
    · intro h'
      rw [hsOf_takeCommand, withPend_zero_of_clear _ hbit]
      split
      next heq => rw [heq]
      next => rfl
    · intro c ty
      rw [asserted_takeCommand]
      split
      next hc => exact (hline c ty hc).symm
      next => rfl
  · exact State.unchanged_takeCommand p hp

theorem State.CommandRead.of_unchanged {s t : State} {h : Nat} {hc : HandshakeCfg} (hread : s.CommandRead h hc)
    (hframe : Unchanged s t [.trace]) : t.CommandRead h hc := by
  obtain ⟨hbit, hline⟩ := hread
  refine ⟨?bit, fun c ty hclear => (hframe .asserted (by decide) c ty).trans (hline c ty hclear)⟩
  rw [hframe .hs (by decide) h]
  exact hbit

/-- A further read of the command returns the byte and changes nothing else (R191). -/
theorem exec_rdHsCmd_again {s : State} {h : Nat} {hc : HandshakeCfg} (hh : s.cfg.handshakes[h]? = some hc)
    (hread : s.CommandRead h hc) (c : Nat) :
    ∃ t, exec (.rdHsCmd c h) s = .next t ∧ t.trace = .read c (s.hsOf h).cmd :: s.trace ∧ Unchanged s t [.trace] := by
  have same := hread.unchanged_takeCommand
  refine ⟨_, exec_rdHsCmd hh c, ?trace, same.trans State.unchanged_emit⟩
  rw [State.emit_trace, same .trace nofun]

/-- An event before n further ones like it. -/
theorem replicate_append_cons_self {α : Type} (n : Nat) (x : α) (l : List α) :
    List.replicate n x ++ x :: l = List.replicate (n + 1) x ++ l := by
  rw [List.replicate_succ', List.append_assoc, List.singleton_append]

theorem execAll_rdHsCmd_again {s : State} {h : Nat} {hc : HandshakeCfg} (hh : s.cfg.handshakes[h]? = some hc)
    (hread : s.CommandRead h hc) (c n : Nat) :
    ∃ t, execAll (List.replicate n (.rdHsCmd c h)) s = .next t ∧
      t.trace = List.replicate n (.read c (s.hsOf h).cmd) ++ s.trace ∧ Unchanged s t [.trace] := by
  induction n generalizing s with
  | zero => exact ⟨s, rfl, rfl, .refl⟩
  | succ n ih =>
    obtain ⟨u, hfirst, htrace, hframe⟩ := exec_rdHsCmd_again hh hread c
    have hcfg : u.cfg = s.cfg := hframe .cfg (by decide)
    have hhs : u.hsOf h = s.hsOf h := hframe .hs (by decide) h
    obtain ⟨t, hrun, hrest, hframe'⟩ := ih (hcfg ▸ hh) (hread.of_unchanged hframe)
    refine ⟨t, ?run, ?trace, (hframe.trans hframe').mono (by simp)⟩
    case run => rw [List.replicate_succ, execAll_cons hfirst, hrun]
    case trace => rw [hrest, htrace, hhs, replicate_append_cons_self]

/-- After one read or more, each has returned the command, and the command has been read. -/
theorem execAll_rdHsCmd {s : State} {h : Nat} {hc : HandshakeCfg} (hh : s.cfg.handshakes[h]? = some hc) (c n : Nat) :
    ∃ t, execAll (List.replicate (n + 1) (.rdHsCmd c h)) s = .next t ∧
      t.trace = List.replicate (n + 1) (.read c (s.hsOf h).cmd) ++ s.trace ∧ t.cfg = s.cfg ∧
      (t.hsOf h).cmd = (s.hsOf h).cmd ∧ t.CommandRead h hc := by
  obtain ⟨u, hfirst, htrace, hcmd, -, hbit, -, -, hlines, -⟩ := readCommand s c h hc hh
  have hread : u.CommandRead h hc := ⟨hbit, fun c' ty hclear => by rw [hlines, if_pos hclear]⟩
  have hcfg : u.cfg = s.cfg := exec_cfg hfirst
  obtain ⟨t, hrun, hrest, hframe⟩ := execAll_rdHsCmd_again (hcfg ▸ hh) hread c n
  refine ⟨t, ?run, ?trace, ?cfg, ?cmd, hread.of_unchanged hframe⟩
  case run => rw [List.replicate_succ, execAll_cons hfirst, hrun]
  case trace => rw [hrest, htrace, hcmd, replicate_append_cons_self]
  case cfg => rw [hframe .cfg (by decide), hcfg]
  case cmd => rw [hframe .hs (by decide) h, hcmd]

/-- Settles O32: the write stores the byte, the first read takes it, and every further read finds it taken. -/
theorem handshakeRoundTrip : Obligations.HandshakeRoundTrip := by
  intro s w c h n v hlen
  obtain ⟨hc, hh⟩ : ∃ hc, s.cfg.handshakes[h]? = some hc := ⟨_, List.getElem?_eq_getElem hlen⟩
  obtain ⟨a, hwrite, hcmd, -⟩ := writeCommand s w h v hc hh
  have htraceA : a.trace = s.trace := exec_unchanged hwrite .trace (by simp [execParts, txnParts])
  rw [← exec_cfg hwrite] at hh
  obtain ⟨t, hreads, htrace, hcfg, hcmdT, hread⟩ := execAll_rdHsCmd hh c n
  obtain ⟨u, hagain, htraceU, hframe⟩ := exec_rdHsCmd_again (hcfg ▸ hh) hread c
  refine ⟨t, u, ?run, ?trace, hread.1, hagain, ?again, hframe⟩
  case run => rw [execAll_cons hwrite, hreads]
  case trace => rw [htrace, hcmd, htraceA]
  case again => rw [htraceU, hcmdT, hcmd]

end Sys2Proof.Machine
end

section
/-! PROOFS. The microcontroller link (R200 to R209): the two data bytes and the status byte, the ports, and the actions
that the edges of port B trigger. -/

namespace Sys2Proof.Machine

/-! ### The registers of a link after a write -/

theorem State.linkOf_setLink_ne (s : State) {m m' : Nat} (hne : m' ≠ m) (v : LinkRegs) :
    (s.setLink m v).linkOf m' = s.linkOf m' := by
  rw [linkOf_setLink, if_neg hne]

theorem State.linkOf_clearOpt (s : State) (r : Option LineRef) (m : Nat) : (s.clearOpt r).linkOf m = s.linkOf m :=
  State.unchanged_clearOpt .link (by decide) m

theorem State.linkOf_assertOpt (s : State) (a : Option LineAssert) (m : Nat) : (s.assertOpt a).linkOf m = s.linkOf m :=
  State.unchanged_assertOpt .link (by decide) m

/-- Link registers written, then a configured assertion (R200, R208): without one no line changes. -/
theorem State.setLink_assertOpt_effect (s : State) (m : Nat) (v : LinkRegs) (x : Option LineAssert) :
    (x = none → Unchanged s ((s.setLink m v).assertOpt x) [.link]) ∧
    (∀ a, x = some a →
      (∀ c ty, ((s.setLink m v).assertOpt x).asserted c ty = if c = a.cpu ∧ ty = a.type then
        Assert.max (s.asserted c ty) (Assert.ofMode a.mode) else s.asserted c ty) ∧
      Unchanged s ((s.setLink m v).assertOpt x) [.link, .asserted]) := by
  refine ⟨?none, ?some⟩
  case none => rintro rfl; exact State.unchanged_setLink
  case some =>
    rintro a rfl
    exact ⟨(s.setLink m v).asserted_assertOpt a, State.unchanged_setLink.trans State.unchanged_assertOpt⟩

/-- Link registers written, then a configured clear (R201, R207). -/
theorem State.asserted_setLink_clearOpt (s : State) (m : Nat) (v : LinkRegs) (x : Option LineRef) (c : Nat)
    (ty : IntType) :
    ((s.setLink m v).clearOpt x).asserted c ty = if x = some ⟨c, ty⟩ then .none else s.asserted c ty := by
  rw [asserted_clearOpt, asserted_setLink]

/-! ### The primary's side -/

section
variable {s : State} {m : Nat} {lc : LinkCfg}

theorem exec_wrMcuData (hm : s.cfg.links[m]? = some lc) (w : Nat) (d : Byte) : exec (.wrMcuData w m d) s =
    .next ((s.setLink m { s.linkOf m with fromMain := d, mainSent := true }).assertOpt lc.mainWriteAssert) := by
  simp only [exec, execWrMcuData, hm]

theorem exec_rdMcuData (hm : s.cfg.links[m]? = some lc) (w : Nat) : exec (.rdMcuData w m) s =
    .next (((s.setLink m { s.linkOf m with mcuSent := false }).clearOpt lc.dataReadClear).emit
      (.read w (s.linkOf m).fromMcu)) := by
  simp only [exec, execRdMcuData, hm]

theorem exec_rdMcuStatus (hm : s.cfg.links[m]? = some lc) (w : Nat) : exec (.rdMcuStatus w m) s =
    .next (s.emit (.read w (mcuStatus lc (s.linkOf m).mainSent (s.linkOf m).mcuSent))) := by
  simp only [exec, execRdMcuStatus, hm]

end

/-- The bits of the status byte under its inversion (R95): the ready bit, the result bit, and zeros. -/
theorem getLsbD_mcuStatus_xor_invert (lc : LinkCfg) (mainSent mcuSent : Bool)
    (hne : lc.statusReadyBit ≠ lc.statusResultBit) {i : Nat} (hi : i < 8) :
    (mcuStatus lc mainSent mcuSent ^^^ lc.statusInvert).getLsbD i =
      if i = lc.statusReadyBit then !mainSent else if i = lc.statusResultBit then mcuSent else false := by
  rw [mcuStatus, BitVec.xor_assoc, BitVec.xor_self, BitVec.xor_zero, BitVec.getLsbD_or,
    getLsbD_bitVal_shiftLeft _ _ hi, getLsbD_bitVal_shiftLeft _ _ hi]
  by_cases hready : i = lc.statusReadyBit
  · simp [hready, hne]
  · simp [hready]

/-- Settles O33. -/
theorem mcuData : Obligations.McuData := by
  intro s w m lc hm
  refine ⟨fun d => ?write, ?read, fun _ _ hne => ?status⟩
  case write =>
    obtain ⟨plain, asserts⟩ := s.setLink_assertOpt_effect m { s.linkOf m with fromMain := d, mainSent := true }
      lc.mainWriteAssert
    refine ⟨_, exec_wrMcuData hm w d, ?own, fun m' hne => ?others, plain, asserts⟩
    case own => rw [State.linkOf_assertOpt, State.linkOf_setLink_self]
    case others => rw [State.linkOf_assertOpt, State.linkOf_setLink_ne _ hne]
  case read =>
    refine ⟨_, exec_rdMcuData hm w, ?trace, ?own, fun m' hne => ?others, s.asserted_setLink_clearOpt m _ _,
      ((State.unchanged_setLink.trans State.unchanged_clearOpt).trans State.unchanged_emit).mono (by simp)⟩
    case trace => rw [State.emit_trace, State.unchanged_clearOpt .trace (by decide), State.setLink_trace]
    case own => rw [State.linkOf_emit, State.linkOf_clearOpt, State.linkOf_setLink_self]
    case others => rw [State.linkOf_emit, State.linkOf_clearOpt, State.linkOf_setLink_ne _ hne]
  case status =>
    exact ⟨_, _, exec_rdMcuStatus hm w, rfl, fun _ hi => getLsbD_mcuStatus_xor_invert lc _ _ hne hi,
      State.unchanged_emit⟩

/-! ### Data direction -/

theorem exec_wrMcuDdr {s : State} {m : Nat} (hm : m < s.cfg.links.length) (u : Nat) (p : Port) (d : Byte) :
    exec (.wrMcuDdr u m p d) s = .next (s.setLink m ((s.linkOf m).withDdr p d)) :=
  Outcome.whenObject_eq_next.2 ⟨decide_eq_true hm, rfl⟩

/-- Settles O34. -/
theorem writeDdr : Obligations.WriteDdr := by
  intro s u m d hm
  have writes (p : Port) : ∃ t, exec (.wrMcuDdr u m p d) s = .next t ∧ t.linkOf m = (s.linkOf m).withDdr p d ∧
      (∀ m', m' ≠ m → t.linkOf m' = s.linkOf m') ∧ Unchanged s t [.link] :=
    ⟨_, exec_wrMcuDdr hm u p d, State.linkOf_setLink_self .., fun _ hne => s.linkOf_setLink_ne hne _,
      State.unchanged_setLink⟩
  exact ⟨writes .a, writes .b⟩

/-! ### The port actions -/

theorem exec_actLatchFromMain {s : State} {m : Nat} (hm : m < s.cfg.links.length) :
    exec (.actLatchFromMain m) s = .next (s.latchFromMain m) :=
  Outcome.whenObject_eq_next.2 ⟨decide_eq_true hm, rfl⟩

theorem exec_actSendToMain {s : State} {m : Nat} (hm : m < s.cfg.links.length) :
    exec (.actSendToMain m) s = .next (s.sendToMain m) :=
  Outcome.whenObject_eq_next.2 ⟨decide_eq_true hm, rfl⟩

theorem State.latchFromMain_eq {s : State} {m : Nat} {lc : LinkCfg} (hm : s.cfg.links[m]? = some lc) :
    s.latchFromMain m =
      (s.setLink m { s.linkOf m with portAIn := (s.linkOf m).fromMain, mainSent := false }).clearOpt lc.latchClear := by
  rw [latchFromMain, hm, Option.bind_some]

theorem State.sendToMain_eq {s : State} {m : Nat} {lc : LinkCfg} (hm : s.cfg.links[m]? = some lc) :
    s.sendToMain m = (s.setLink m { s.linkOf m with
      fromMcu := portPins (s.linkOf m).latchA (s.linkOf m).ddrA (s.linkOf m).portAIn
      mcuSent := true }).assertOpt lc.sendAssert := by
  rw [sendToMain, hm, Option.bind_some]

theorem State.linkOf_latchFromMain (s : State) (m m' : Nat) : (s.latchFromMain m).linkOf m' =
    if m' = m then { s.linkOf m with portAIn := (s.linkOf m).fromMain, mainSent := false } else s.linkOf m' := by
  rw [latchFromMain, linkOf_clearOpt, linkOf_setLink]

theorem State.linkOf_sendToMain (s : State) (m m' : Nat) : (s.sendToMain m).linkOf m' =
    if m' = m then { s.linkOf m with
      fromMcu := portPins (s.linkOf m).latchA (s.linkOf m).ddrA (s.linkOf m).portAIn
      mcuSent := true } else s.linkOf m' := by
  rw [sendToMain, linkOf_assertOpt, linkOf_setLink]

/-- Settles O37. -/
theorem portActions : Obligations.PortActions := by
  intro s m lc hm r
  have hlen : m < s.cfg.links.length := (List.getElem?_eq_some_iff.1 hm).1
  refine ⟨⟨_, exec_actLatchFromMain hlen, ?latchOwn, fun m' hne => ?latchOthers, ?clears,
    State.unchanged_latchFromMain⟩, ⟨_, exec_actSendToMain hlen, ?sendOwn, fun m' hne => ?sendOthers, ?asserts⟩⟩
  case latchOwn => rw [State.linkOf_latchFromMain, if_pos rfl]
  case latchOthers => rw [State.linkOf_latchFromMain, if_neg hne]
  case clears => rw [State.latchFromMain_eq hm]; exact s.asserted_setLink_clearOpt m _ _
  case sendOwn => rw [State.linkOf_sendToMain, if_pos rfl]; rfl
  case sendOthers => rw [State.linkOf_sendToMain, if_neg hne]
  case asserts => rw [State.sendToMain_eq hm]; exact s.setLink_assertOpt_effect m _ _

/-! ### Triggers -/

theorem exec_portAction {s : State} {m : Nat} (hm : m < s.cfg.links.length) (a : PortAction) :
    exec (a.instr m) s = .next (s.portAction m a) := by
  cases a with
  | latchFromMain => exact exec_actLatchFromMain hm
  | sendToMain => exact exec_actSendToMain hm

/-- An action writes the two data paths to and from the microcontroller and their flags: no latch, no DDR and not the
primary's byte. -/
theorem State.linkOf_portAction_shape (s : State) (m : Nat) (a : PortAction) : ∃ input sent byte flag,
    (s.portAction m a).linkOf m =
      { s.linkOf m with portAIn := input, mainSent := sent, fromMcu := byte, mcuSent := flag } := by
  cases a with
  | latchFromMain => exact ⟨_, _, _, _, (s.linkOf_latchFromMain m m).trans (if_pos rfl)⟩
  | sendToMain => exact ⟨_, _, _, _, (s.linkOf_sendToMain m m).trans (if_pos rfl)⟩

theorem State.linkOf_portAction_ne (s : State) {m m' : Nat} (hne : m' ≠ m) (a : PortAction) :
    (s.portAction m a).linkOf m' = s.linkOf m' := by
  cases a with
  | latchFromMain => exact (s.linkOf_latchFromMain m m').trans (if_neg hne)
  | sendToMain => exact (s.linkOf_sendToMain m m').trans (if_neg hne)

theorem State.runTriggers_cons_of_fires {g : Trigger} {old new : Byte} (hg : g.fires old new = true) (s : State)
    (m : Nat) (ts : List Trigger) :
    s.runTriggers m (g :: ts) old new = (s.portAction m g.action).runTriggers m ts old new := by
  rw [runTriggers, List.foldl_cons, if_pos hg]; rfl

theorem State.runTriggers_cons_of_not_fires {g : Trigger} {old new : Byte} (hg : ¬g.fires old new = true) (s : State)
    (m : Nat) (ts : List Trigger) : s.runTriggers m (g :: ts) old new = s.runTriggers m ts old new := by
  rw [runTriggers, List.foldl_cons, if_neg hg]; rfl

/-- The triggers of a write perform, in table order, the actions of those that fire (R204). -/
theorem execAll_firing_actions {s : State} {m : Nat} (hm : m < s.cfg.links.length) (ts : List Trigger)
    (old new : Byte) : execAll ((ts.filter fun g => g.fires old new).map fun g => g.action.instr m) s =
      .next (s.runTriggers m ts old new) := by
  induction ts generalizing s with
  | nil => rfl
  | cons g ts ih =>
    by_cases hg : g.fires old new = true
    · have hcfg : (s.portAction m g.action).cfg = s.cfg := State.unchanged_portAction .cfg (by decide)
      rw [List.filter_cons, if_pos hg, List.map_cons, execAll_cons (exec_portAction hm _), ih (hcfg ▸ hm),
        State.runTriggers_cons_of_fires hg]
    · rw [List.filter_cons, if_neg hg, ih hm, State.runTriggers_cons_of_not_fires hg]

theorem State.linkOf_runTriggers_shape (s : State) (m : Nat) (ts : List Trigger) (old new : Byte) :
    ∃ input sent byte flag, (s.runTriggers m ts old new).linkOf m =
      { s.linkOf m with portAIn := input, mainSent := sent, fromMcu := byte, mcuSent := flag } := by
  induction ts generalizing s with
  | nil => exact ⟨_, _, _, _, rfl⟩
  | cons g ts ih =>
    by_cases hg : g.fires old new = true
    · obtain ⟨_, _, _, _, hfirst⟩ := s.linkOf_portAction_shape m g.action
      obtain ⟨_, _, _, _, hrest⟩ := ih (s.portAction m g.action)
      exact ⟨_, _, _, _, by rw [runTriggers_cons_of_fires hg, hrest, hfirst]⟩
    · rw [runTriggers_cons_of_not_fires hg]; exact ih s

theorem State.linkOf_runTriggers_kept (s : State) (m : Nat) (ts : List Trigger) (old new : Byte) :
    ((s.runTriggers m ts old new).linkOf m).latchB = (s.linkOf m).latchB ∧
      ((s.runTriggers m ts old new).linkOf m).latchA = (s.linkOf m).latchA ∧
      ((s.runTriggers m ts old new).linkOf m).ddrA = (s.linkOf m).ddrA ∧
      ((s.runTriggers m ts old new).linkOf m).ddrB = (s.linkOf m).ddrB ∧
      ((s.runTriggers m ts old new).linkOf m).fromMain = (s.linkOf m).fromMain := by
  obtain ⟨_, _, _, _, hlink⟩ := s.linkOf_runTriggers_shape m ts old new
  rw [hlink]
  exact ⟨rfl, rfl, rfl, rfl, rfl⟩

theorem State.linkOf_runTriggers_ne (s : State) {m m' : Nat} (hne : m' ≠ m) (ts : List Trigger) (old new : Byte) :
    (s.runTriggers m ts old new).linkOf m' = s.linkOf m' := by
  induction ts generalizing s with
  | nil => rfl
  | cons g ts ih =>
    by_cases hg : g.fires old new = true
    · rw [runTriggers_cons_of_fires hg, ih, linkOf_portAction_ne s hne]
    · rw [runTriggers_cons_of_not_fires hg, ih]

/-- A trigger fires on the falling or the rising edge of its bit (R204). -/
theorem fires_eq_edges (old new : Byte) : (fun g : Trigger => g.fires old new) = fun g =>
    (decide (g.edge = .falling) && old.getLsbD g.bit && !new.getLsbD g.bit) ||
      (decide (g.edge = .rising) && !old.getLsbD g.bit && new.getLsbD g.bit) := by
  funext g
  obtain ⟨bit, edge, action⟩ := g
  cases edge with
  | falling => simp [Trigger.fires, bitOf]
  | rising => simp [Trigger.fires, bitOf]

/-! ### Ports -/

section
variable {s : State} {m : Nat}

theorem exec_wrMcuPort_a {lc : LinkCfg} (hm : s.cfg.links[m]? = some lc) (u : Nat) (d : Byte) :
    exec (.wrMcuPort u m .a d) s = .next (s.setLink m { s.linkOf m with
      latchA := portLatch (s.linkOf m).latchA (s.linkOf m).ddrA d }) := by
  simp only [exec, execWrMcuPort, hm, LinkRegs.latch, LinkRegs.ddr, LinkRegs.withLatch]

theorem exec_wrMcuPort_b {lc : LinkCfg} (hm : s.cfg.links[m]? = some lc) (u : Nat) (d : Byte) :
    exec (.wrMcuPort u m .b d) s = .next ((s.setLink m { s.linkOf m with
      latchB := portLatch (s.linkOf m).latchB (s.linkOf m).ddrB d }).runTriggers m lc.triggers
        ((s.linkOf m).latchB &&& (s.linkOf m).ddrB)
        (portLatch (s.linkOf m).latchB (s.linkOf m).ddrB d &&& (s.linkOf m).ddrB)) := by
  simp only [exec, execWrMcuPort, hm, LinkRegs.latch, LinkRegs.ddr, LinkRegs.withLatch]

theorem exec_rdMcuPort_a (hm : m < s.cfg.links.length) (u : Nat) : exec (.rdMcuPort u m .a) s =
    .next (s.emit (.read u (portPins (s.linkOf m).latchA (s.linkOf m).ddrA (s.linkOf m).portAIn))) :=
  Outcome.whenObject_eq_next.2 ⟨decide_eq_true hm, rfl⟩

theorem exec_rdMcuPort_b (hm : m < s.cfg.links.length) (u : Nat) : exec (.rdMcuPort u m .b) s =
    .next (s.drawn.emit (.read u
      (portPins (s.linkOf m).latchB (s.linkOf m).ddrB (Config.drawPortBIn m s.draws)))) :=
  Outcome.whenObject_eq_next.2 ⟨decide_eq_true hm, rfl⟩

end

/-- Settles O35: port B's write is the latch write and then the actions of the triggers that fire. -/
theorem writePort : Obligations.WritePort := by
  intro s u m d lc hm r latchB old new
  refine ⟨⟨_, exec_wrMcuPort_a hm u d, s.linkOf_setLink_self m _, fun m' hne => s.linkOf_setLink_ne hne _,
    State.unchanged_setLink⟩, ?portB⟩
  have hlen : m < s.cfg.links.length := (List.getElem?_eq_some_iff.1 hm).1
  have actions := execAll_firing_actions (s := s.setLink m { r with latchB := latchB }) hlen lc.triggers old new
  rw [fires_eq_edges] at actions
  have kept := (s.setLink m { r with latchB := latchB }).linkOf_runTriggers_kept m lc.triggers old new
  rw [State.linkOf_setLink_self] at kept
  obtain ⟨hlatchB, hlatchA, hddrA, hddrB, hfromMain⟩ := kept
  refine ⟨_, exec_wrMcuPort_b hm u d, actions, hlatchB, hlatchA, hddrA, hddrB, hfromMain, fun m' hne => ?others,
    (State.unchanged_setLink.trans State.unchanged_runTriggers).mono (by simp)⟩
  case others => rw [State.linkOf_runTriggers_ne _ hne, State.linkOf_setLink_ne _ hne]

/-- Settles O36. -/
theorem readPort : Obligations.ReadPort := by
  intro s u m hm r
  exact ⟨⟨_, exec_rdMcuPort_a hm u, rfl, State.unchanged_emit⟩,
    ⟨_, exec_rdMcuPort_b hm u, rfl, rfl, State.unchanged_drawn_emit⟩⟩

/-- On output pins the latch written under a DDR holds the byte, so a read returns the byte there (R209). -/
theorem portLatch_and_ddr (x r d : Byte) : ((x &&& ~~~r) ||| (d &&& r)) &&& r = d &&& r := by
  ext i hi
  simp only [BitVec.getElem_and, BitVec.getElem_or, BitVec.getElem_not]
  cases r[i] with
  | false => simp only [Bool.and_false]
  | true => simp only [Bool.not_true, Bool.and_true, Bool.and_false, Bool.false_or]

/-- Settles O38: the write of R204, then the read of R205 in the state it leaves. -/
theorem ddrProperty : Obligations.DdrProperty := by
  intro s u m d lc hm r
  obtain ⟨⟨a, writeA, linkA, -, frameA⟩, ⟨b, writeB, -, latchB, -, -, ddrB, -, -, frameB⟩⟩ := writePort s u m d lc hm
  have hlen : m < s.cfg.links.length := (List.getElem?_eq_some_iff.1 hm).1
  refine ⟨?portA, ?portB⟩
  case portA =>
    obtain ⟨⟨t, read, trace, frame⟩, -⟩ := readPort a u m (exec_cfg writeA ▸ hlen)
    refine ⟨t, _, ?_, ?_, ?_, rfl⟩
    · rw [execAll_cons writeA, execAll_cons read, execAll]
    · rw [frame .link (by decide) m, linkA]
    · rw [trace, linkA, portLatch_and_ddr, frameA .trace (by decide)]
  case portB =>
    obtain ⟨-, t, read, trace, -, frame⟩ := readPort b u m (exec_cfg writeB ▸ hlen)
    refine ⟨t, _, ?_, ?_, ?_, rfl⟩
    · rw [execAll_cons writeB, execAll_cons read, execAll]
    · rw [frame .link (by decide) m, latchB]
    · rw [trace, latchB, ddrB, portLatch_and_ddr, frameB .draws (by decide), frameB .trace (by decide)]

end Sys2Proof.Machine
end

section
/-! PROOFS. The video registers (R230 to R235): what each of the five writes leaves in the layer's registers, and the
register that a write to the block selects. -/

namespace Sys2Proof.Machine

theorem hasLayer_of_getElem? {cfg : Config} {l : Nat} {layer : LayerCfg} (h : cfg.layers[l]? = some layer) :
    cfg.hasLayer l = true :=
  decide_eq_true (List.getElem?_eq_some_iff.1 h).1

/-! ### The registers of a layer after a write -/

theorem State.vregOf_setVreg_ne (s : State) {l l' : Nat} (hne : l' ≠ l) (v : VregRegs) :
    (s.setVreg l v).vregOf l' = s.vregOf l' := by
  rw [vregOf_setVreg, if_neg hne]

theorem State.setVreg_effect (s : State) (l : Nat) (v : VregRegs) :
    (s.setVreg l v).vregOf l = v ∧ (∀ l', l' ≠ l → (s.setVreg l v).vregOf l' = s.vregOf l') ∧
      Unchanged s (s.setVreg l v) [.vreg] :=
  ⟨s.vregOf_setVreg_self l v, fun _ hne => s.vregOf_setVreg_ne hne v, State.unchanged_setVreg⟩

theorem State.irqEn_setIrqEn_ne (s : State) {c line c' line' : Nat} (hne : (c', line') ≠ (c, line)) (v : Bool) :
    (s.setIrqEn c line v).irqEn c' line' = s.irqEn c' line' := by
  rw [irqEn_setIrqEn, if_neg]
  rintro ⟨rfl, rfl⟩
  exact hne rfl

/-! ### The control write (R235): the register, then the interrupt-enable bit where the layer carries one -/

theorem State.vregOf_writeVctrl (s : State) (l : Nat) (d : Byte) (l' : Nat) :
    (s.writeVctrl l d).vregOf l' = (s.setVreg l { s.vregOf l with vctrl := d }).vregOf l' := by
  unfold writeVctrl
  dsimp only
  split
  · rw [vregOf_setIrqEn]
  · rfl

section
variable {s : State} {l : Nat} {layer : LayerCfg}

theorem State.writeVctrl_of_none (hl : s.cfg.layers[l]? = some layer) (hirq : layer.vctrlIrq = none) (d : Byte) :
    s.writeVctrl l d = s.setVreg l { s.vregOf l with vctrl := d } := by
  simp only [writeVctrl, hl, Option.bind_some, hirq]

theorem State.writeVctrl_of_some {v : VctrlIrq} (hl : s.cfg.layers[l]? = some layer)
    (hirq : layer.vctrlIrq = some v) (d : Byte) : s.writeVctrl l d =
      (s.setVreg l { s.vregOf l with vctrl := d }).setIrqEn v.cpu v.line (d.getLsbD v.bit) := by
  simp only [writeVctrl, hl, Option.bind_some, hirq, bitOf]

/-! ### The five writes -/

theorem exec_wrVregScrollxLo (hl : s.cfg.hasLayer l = true) (w : Nat) (d : Byte) :
    exec (.wrVregScrollxLo w l d) s = .next (s.setVreg l { s.vregOf l with scrollXlo := d }) :=
  Outcome.whenObject_eq_next.2 ⟨hl, rfl⟩

theorem exec_wrVregScrollxHi (hl : s.cfg.hasLayer l = true) (w : Nat) (d : Byte) :
    exec (.wrVregScrollxHi w l d) s = .next (s.setVreg l { s.vregOf l with scrollXhi := d }) :=
  Outcome.whenObject_eq_next.2 ⟨hl, rfl⟩

theorem exec_wrVregScrolly (hl : s.cfg.hasLayer l = true) (w : Nat) (d : Byte) :
    exec (.wrVregScrolly w l d) s = .next (s.setVreg l { s.vregOf l with scrollY := d }) :=
  Outcome.whenObject_eq_next.2 ⟨hl, rfl⟩

theorem exec_wrVregBank (hl : s.cfg.hasLayer l = true) (w : Nat) (d : Byte) : exec (.wrVregBank w l d) s =
    .next ((s.setVreg l { s.vregOf l with vbank := d }).setDirty l true) :=
  Outcome.whenObject_eq_next.2 ⟨hl, rfl⟩

theorem exec_wrVregCtrl (hl : s.cfg.hasLayer l = true) (w : Nat) (d : Byte) :
    exec (.wrVregCtrl w l d) s = .next (s.writeVctrl l d) :=
  Outcome.whenObject_eq_next.2 ⟨hl, rfl⟩

end

/-- Settles O39: each write is a write of the layer's register set; the bank select then marks the layer, and the
control write then writes the enable bit. -/
theorem videoRegisters : Obligations.VideoRegisters := by
  intro s w l d layer hlayer
  have hl := hasLayer_of_getElem? hlayer
  refine ⟨⟨_, exec_wrVregScrollxLo hl w d, s.setVreg_effect l _⟩,
    ⟨_, exec_wrVregScrollxHi hl w d, s.setVreg_effect l _⟩,
    ⟨_, exec_wrVregScrolly hl w d, s.setVreg_effect l _⟩, ?bank, ?ctrl⟩
  case bank =>
    refine ⟨_, exec_wrVregBank hl w d, ?own, fun l' hne => ?others, ?marked, fun l' hne => ?unmarked,
      State.unchanged_writeVbank⟩
    case own => rw [State.vregOf_setDirty, State.vregOf_setVreg_self]
    case others => rw [State.vregOf_setDirty, State.vregOf_setVreg_ne _ hne]
    case marked => rw [State.dirtyOf_setDirty, if_pos rfl]
    case unmarked => rw [State.dirtyOf_setDirty, if_neg hne, State.dirtyOf_setVreg]
  case ctrl =>
    refine ⟨_, exec_wrVregCtrl hl w d, ?own, fun l' hne => ?others, fun hirq => ?noBit, fun v hirq => ?bit⟩
    case own => rw [State.vregOf_writeVctrl, State.vregOf_setVreg_self]
    case others => rw [State.vregOf_writeVctrl, State.vregOf_setVreg_ne _ hne]
    case noBit => rw [State.writeVctrl_of_none hlayer hirq]; exact State.unchanged_setVreg
    case bit =>
      refine ⟨?written, fun c line hne => ?otherLines, State.unchanged_writeVctrl⟩
      case written => rw [State.writeVctrl_of_some hlayer hirq, State.irqEn_setIrqEn, if_pos ⟨rfl, rfl⟩]
      case otherLines =>
        rw [State.writeVctrl_of_some hlayer hirq, State.irqEn_setIrqEn_ne _ hne, State.irqEn_setVreg]

/-! ### The register block -/

/-- WR.VREG does what the operation that the decoder selects for the same write does. -/
theorem exec_wrVreg (s : State) (w l off : Nat) (d : Byte) :
    exec (.wrVreg w l off d) s = exec (vregInstr s.cfg w l off d) s := by
  unfold vregInstr
  cases hfield : s.cfg.vregField l off with
  | none => rfl
  | some f => cases f <;> simp only [exec, execWrVreg, hfield, execWrVregScrollxLo, execWrVregScrollxHi,
      execWrVregScrolly, execWrVregBank, execWrVregCtrl]

/-- Settles O40: by whether the layout names a field at the offset. -/
theorem videoRegisterBlock : Obligations.VideoRegisterBlock := by
  intro s w l off d layer hlayer
  have hl := hasLayer_of_getElem? hlayer
  refine ⟨fun hf => ?unnamed, fun f hf huniq => ?named⟩
  case unnamed =>
    simp only [exec, execWrVreg, vregField_of_not_mem hlayer hf, hl, Outcome.whenObject_true]
  case named =>
    obtain ⟨t, ht⟩ := exec_vregInstr_completes hl w off d
    refine ⟨t, (exec_wrVreg ..).trans ht, ?_⟩
    rw [← ht, vregInstr, vregField_of_mem hlayer hf huniq]
    cases f <;> rfl

end Sys2Proof.Machine
end

section
/-! PROOFS. The compositor's small operations: TILE.RESOLVE (R97, R254, R270), SPRITE.DECODE (R98, R261, R262), and the
output of COMPOSE and PALETTE.RESOLVE (R252, R255, R267, R268). -/

namespace Sys2Proof.Machine

/-! ### Tiles -/

theorem exec_tileResolve {s : State} {l : Nat} {layer : LayerCfg} (h : s.cfg.layers[l]? = some layer) (cell : Nat) :
    exec (.tileResolve l cell) s = .next (s.emit (.tile (s.tileInfo l layer cell))) := by
  simp only [exec, execTileResolve, h]

/-- Settles O41: what TILE.RESOLVE records is the tile's record, field by field. -/
theorem tileResolve : Obligations.TileResolve := by
  intro s l cell layer h
  exact ⟨_, _, exec_tileResolve h cell, State.emit_trace .., State.unchanged_emit, rfl, rfl, beq_iff_eq, beq_iff_eq⟩

/-! ### Sprite entries -/

theorem exec_spriteDecode {s : State} {i : Nat} (h : i < s.cfg.sprites.count) :
    exec (.spriteDecode i) s = .next (s.emit (.sprite (s.decodeSprite i))) :=
  Outcome.whenObject_eq_next.2 ⟨decide_eq_true h, rfl⟩

/-- Byte k of sprite entry i (R260). -/
def State.spriteByte (s : State) (i k : Nat) : Byte :=
  s.memRead s.cfg.sprites.sprRam (s.cfg.sprites.sprBase + i * s.cfg.sprites.stride + k)

/-- An entry whose raw Y is the sentinel is skipped (R261). -/
theorem State.decodeSprite_of_offscreen {s : State} {i : Nat}
    (h : s.cfg.sprites.offscreenY = some (s.cfg.sprites.layout.y.value (s.spriteByte i))) : s.decodeSprite i = none :=
  if_pos h

/-- Any other entry decodes to its fields (R98, R262). -/
theorem State.decodeSprite_of_shown {s : State} {i : Nat}
    (h : s.cfg.sprites.offscreenY ≠ some (s.cfg.sprites.layout.y.value (s.spriteByte i))) :
    let lay := s.cfg.sprites.layout
    let rd := s.spriteByte i
    let opt : Option SpriteField → Nat := fun o => (o.map (·.value rd)).getD 0
    s.decodeSprite i = some
      { code := lay.codeLo.value rd ||| opt lay.codeHi <<< 8
        x := match s.cfg.xExtMode with
          | .ninthBit => (lay.xByte.value rd : Int) + 256 * opt lay.xExt
          | .sign => (lay.xByte.value rd : Int) - 256 * opt lay.xExt
        y := lay.y.value rd
        color := lay.color.value rd
        flipX := lay.flipX.flag rd
        flipY := lay.flipY.flag rd
        size := Fin.ofNat 4 (lay.size.value rd)
        prio := opt lay.prio } := by
  refine (if_neg h).trans (congrArg some ((SpriteRec.mk.injEq ..).mpr
    ⟨?code, ?x, rfl, rfl, rfl, rfl, rfl, ?prio⟩))
  case code => cases s.cfg.sprites.layout.codeHi <;> rfl
  case x => cases s.cfg.xExtMode <;> cases s.cfg.sprites.layout.xExt <;> rfl
  case prio => cases s.cfg.sprites.layout.prio <;> rfl

/-- Settles O43: by whether the raw Y is the sentinel. -/
theorem spriteDecode : Obligations.SpriteDecode := by
  intro s i hi
  refine ⟨_, _, exec_spriteDecode hi, State.emit_trace .., State.unchanged_emit,
    State.decodeSprite_of_offscreen, fun hy => ⟨_, State.decodeSprite_of_shown hy, rfl, fun hx => ?ninthBit,
      fun hx => ?sign, rfl, rfl, beq_iff_eq, beq_iff_eq, rfl, rfl⟩⟩
  case ninthBit => simp only [hx]; rfl
  case sign => simp only [hx]; rfl

/-! ### The output of a frame -/

/-- A pixel of the resolved screen (R267). -/
theorem State.resolvePalette_pixel (s : State) {x y : Nat} (hx : x < s.cfg.screenW) (hy : y < s.cfg.screenH) :
    (s.resolvePalette[y]?.bind (·[x]?)) = some (s.colourOf (pixelAt s.fb x y)) := by
  rw [resolvePalette, tabulate_getElem?, if_pos hy, Option.bind_some, tabulate_getElem?, if_pos hx, Nat.zero_add,
    Nat.zero_add]

/-- A composition resolves the frame that it has drawn, with the palette as it stands (R252, R267). -/
theorem State.composed_pixel (s : State) {x y : Nat} (hx : x < s.cfg.screenW) (hy : y < s.cfg.screenH) :
    (s.drawFrame.resolvePalette[y]?.bind (·[x]?)) = some (s.colourOf (pixelAt s.drawFrame.fb x y)) := by
  obtain ⟨fb, h⟩ := s.drawFrame_shape
  rw [h]
  exact State.resolvePalette_pixel { s with fb := fb } hx hy

/-- A composition clears the flag of every layer that the configuration has (R252). -/
theorem State.dirtyOf_composed (s : State) (l : Nat) :
    s.composed.dirtyOf l = (s.dirtyOf l && decide (s.cfg.layers.length ≤ l)) := by
  have kept : s.drawFrame.dirtyOf l = s.dirtyOf l := by
    obtain ⟨fb, h⟩ := s.drawFrame_shape
    rw [h]
    rfl
  calc s.composed.dirtyOf l
      = (s.drawFrame.setDirtyAll (List.range s.cfg.layers.length) false).dirtyOf l := rfl
    _ = if l ∈ List.range s.cfg.layers.length then false else s.dirtyOf l := by rw [dirtyOf_setDirtyAll, kept]
    _ = (s.dirtyOf l && decide (s.cfg.layers.length ≤ l)) := by
      by_cases hl : l < s.cfg.layers.length
      · simp [hl]
      · simp [hl, Nat.not_lt.1 hl]

/-- Settles O45: COMPOSE resolves the frame it has drawn, PALETTE.RESOLVE the frame buffer as it stands. -/
theorem frameOutput : Obligations.FrameOutput := by
  intro s
  obtain ⟨d, hd⟩ := s.composed_eq
  refine ⟨⟨s.composed, s.drawFrame.resolvePalette, rfl, hd ▸ rfl, ?trace, fun x y hx hy => ?pixel, s.dirtyOf_composed,
      State.unchanged_composed.mono (by decide)⟩,
    ⟨_, _, rfl, State.emit_trace .., fun x y hx hy => s.resolvePalette_pixel hx hy, State.unchanged_emit⟩⟩
  case trace =>
    obtain ⟨fb, h⟩ := s.drawFrame_shape
    rw [hd, h]
  case pixel =>
    rw [hd]
    exact s.composed_pixel hx hy

end Sys2Proof.Machine
end

section
/-! PROOFS. SPRITE.DRAW pixel by pixel (R263 to R266): a sub-tile is a fold of dots and a sprite a fold of sub-tiles, and
on any one pixel all steps of such a fold that draw on it draw the same value. -/

namespace Sys2Proof.Machine

/-! ### A frame buffer that holds the screen -/

/-- The frame buffer holds every pixel of the screen and no other. -/
def HoldsScreen (cfg : Config) (fb : List (List Nat)) : Prop :=
  fb.length = cfg.screenH ∧ ∀ row ∈ fb, row.length = cfg.screenW

theorem holdsScreen_paint (cfg : Config) (fb : List (List Nat)) (f : Nat → Nat → Option Nat) :
    HoldsScreen cfg (paint cfg fb f) := by
  refine ⟨tabulate_length .., fun row hrow => ?_⟩
  obtain ⟨y, -, rfl⟩ := mem_tabulate.1 hrow
  exact tabulate_length ..

theorem holdsScreen_fillScreen (cfg : Config) (p : Nat) : HoldsScreen cfg (fillScreen cfg p) := by
  refine ⟨List.length_replicate, fun row hrow => ?_⟩
  rw [List.eq_of_mem_replicate hrow, List.length_replicate]

section
variable {cfg : Config} {fb : List (List Nat)}

/-- Row y of the frame buffer, and the pixel in column x of it. -/
theorem HoldsScreen.getElem? (h : HoldsScreen cfg fb) {x y : Nat} (hx : x < cfg.screenW) (hy : y < cfg.screenH) :
    ∃ row, fb[y]? = some row ∧ row.length = cfg.screenW ∧ row[x]? = some (pixelAt fb x y) := by
  obtain ⟨hrows, hcols⟩ := h
  have hrow : fb[y]? = some fb[y] := List.getElem?_eq_getElem _
  have hlen : fb[y].length = cfg.screenW := hcols _ (List.getElem_mem _)
  refine ⟨_, hrow, hlen, ?_⟩
  have hcol : fb[y][x]? = some fb[y][x] := List.getElem?_eq_getElem _
  rw [pixelAt, hrow, Option.bind_some, hcol, Option.getD_some]

/-- Painting nothing on a frame buffer that holds the screen leaves it as it is. -/
theorem HoldsScreen.paint_none (h : HoldsScreen cfg fb) : paint cfg fb (fun _ _ => none) = fb := by
  refine List.ext_getElem? fun y => ?_
  rw [paint, tabulate_getElem?, Nat.zero_add]
  split
  case isFalse hy => rw [List.getElem?_eq_none (by rw [h.1]; exact Nat.le_of_not_lt hy)]
  case isTrue hy =>
    have hrow : y < fb.length := h.1.symm ▸ hy
    rw [List.getElem?_eq_getElem hrow, Option.some_inj]
    refine List.ext_getElem? fun x => ?_
    rw [tabulate_getElem?, Nat.zero_add, Option.getD_none]
    split
    case isTrue hx =>
      obtain ⟨row, hr, -, hp⟩ := h.getElem? hx hy
      rw [List.getElem?_eq_getElem hrow, Option.some_inj] at hr
      rw [hr, hp]
    case isFalse hx =>
      rw [List.getElem?_eq_none (by rw [h.2 _ (List.getElem_mem _)]; exact Nat.le_of_not_lt hx)]

/-! ### One dot (R266) -/

theorem HoldsScreen.putPixel (h : HoldsScreen cfg fb) (x y : Int) (pen base color : Nat) (mode : Transp) :
    HoldsScreen cfg (putPixel cfg fb x y pen base color mode) := by
  unfold Machine.putPixel
  split
  · exact h
  split
  · refine ⟨(List.length_modify ..).trans h.1, fun row hrow => ?_⟩
    obtain ⟨j, hj⟩ := List.mem_iff_getElem?.1 hrow
    rw [List.getElem?_modify] at hj
    obtain ⟨old, hold, rfl⟩ := Option.map_eq_some_iff.1 hj
    have hlen := h.2 old (List.mem_of_getElem? hold)
    split
    · exact List.length_set.trans hlen
    · exact hlen
  · exact h

/-- A dot changes the pixel at its place, unless its pen is transparent, and no other; off the screen it is dropped. -/
theorem pixelAt_putPixel (h : HoldsScreen cfg fb) (X Y : Int) (pen base color : Nat) (mode : Transp) {x y : Nat}
    (hx : x < cfg.screenW) (hy : y < cfg.screenH) :
    pixelAt (putPixel cfg fb X Y pen base color mode) x y =
      if X = x ∧ Y = y then (pixelIndex cfg pen base color mode).getD (pixelAt fb x y) else pixelAt fb x y := by
  obtain ⟨row, hrow, hlen, hcol⟩ := h.getElem? hx hy
  unfold putPixel
  split
  case isTrue off => rw [if_neg (by omega)]
  case isFalse on =>
    cases pixelIndex cfg pen base color mode with
    | none => exact (ite_self _).symm
    | some p =>
      dsimp only
      by_cases here : X = x ∧ Y = y
      · obtain ⟨rfl, rfl⟩ := here
        simp [pixelAt, hrow, hlen, hx]
      · rw [if_neg here]
        by_cases sameRow : Y.toNat = y
        · have otherColumn : X.toNat ≠ x := by omega
          simp [pixelAt, hrow, sameRow, otherColumn]
        · simp [pixelAt, hrow, sameRow]

/-! ### Folds of drawing steps -/

/-- Drawing steps that hold the screen, one after another, hold it. -/
theorem HoldsScreen.foldl {β : Type} {draw : List (List Nat) → β → List (List Nat)}
    (keep : ∀ fb b, HoldsScreen cfg fb → HoldsScreen cfg (draw fb b)) (bs : List β) (h : HoldsScreen cfg fb) :
    HoldsScreen cfg (bs.foldl draw fb) :=
  List.foldlRecOn bs draw h fun fb hfb b _ => keep fb b hfb

/-- Where each step b draws `val b` on the pixel (`none` leaves it), every value drawn is v, and v is drawn if it is a
value, the fold draws v. -/
theorem pixelAt_foldl {β : Type} {draw : List (List Nat) → β → List (List Nat)} {val : β → Option Nat} {v : Option Nat}
    {x y : Nat} {bs : List β} (keep : ∀ fb b, HoldsScreen cfg fb → HoldsScreen cfg (draw fb b))
    (step : ∀ fb b, HoldsScreen cfg fb → pixelAt (draw fb b) x y = (val b).getD (pixelAt fb x y))
    (agree : ∀ b ∈ bs, val b = none ∨ val b = v) (reached : v = none ∨ ∃ b ∈ bs, val b = v) (h : HoldsScreen cfg fb) :
    pixelAt (bs.foldl draw fb) x y = v.getD (pixelAt fb x y) := by
  induction bs generalizing fb v with
  | nil =>
    obtain rfl | ⟨_, hb, _⟩ := reached
    · rfl
    · exact absurd hb List.not_mem_nil
  | cons b bs ih =>
    obtain ⟨first, rest⟩ := List.forall_mem_cons.1 agree
    rw [List.foldl_cons]
    by_cases later : v = none ∨ ∃ c ∈ bs, val c = v
    · rw [ih rest later (keep fb b h), step fb b h]
      obtain hb | hb := first <;> rw [hb]
      · rfl
      · cases v <;> rfl
    · obtain ⟨drawn, notLater⟩ := not_or.1 later
      have hb : val b = v := by simpa [drawn, notLater] using reached
      have none_later : ∀ c ∈ bs, val c = none := fun c hc =>
        (rest c hc).resolve_right fun hv => notLater ⟨c, hc, hv⟩
      rw [ih (v := none) (fun c hc => .inl (none_later c hc)) (.inl rfl) (keep fb b h), step fb b h, hb]
      rfl

/-! ### One sub-tile (R264) -/

/-- Position k of n, counted from the other end under a flip. -/
def mirror (flip : Bool) (n k : Nat) : Nat := if flip then n - 1 - k else k

theorem mirror_lt {flip : Bool} {n k : Nat} (h : k < n) : mirror flip n k < n := by
  unfold mirror; split <;> omega

theorem mirror_mirror {flip : Bool} {n k : Nat} (h : k < n) : mirror flip n (mirror flip n k) = k := by
  cases flip <;> simp only [mirror, if_true, Bool.false_eq_true, if_false]
  omega

/-- The palette index of pixel (u, v) of a 16×16 graphic as drawn, or `none` where it is transparent. -/
def graphicPixel (cfg : Config) (code : Nat) (fx fy : Bool) (color u v : Nat) : Option Nat :=
  pixelIndex cfg (cfg.gfx.apply [cfg.sprites.sprGfxSet, code, mirror fx 16 u, mirror fy 16 v])
    cfg.sprites.sprColorBase color (.pen cfg.sprites.sprTranspPen)

/-- Screen pixel (x, y) lies in the rectangle of the given width and height at (X, Y). -/
abbrev InRect (X Y : Int) (width height x y : Nat) : Prop :=
  X ≤ x ∧ (x : Int) < X + width ∧ Y ≤ y ∧ (y : Int) < Y + height

/-- What a sub-tile at (X, Y) draws on screen pixel (x, y): its own pixel there, or `none` outside its square. -/
def subtilePixel (cfg : Config) (code : Nat) (X Y : Int) (fx fy : Bool) (color x y : Nat) : Option Nat :=
  if InRect X Y 16 16 x y then
    graphicPixel cfg code fx fy color (x - X).toNat (y - Y).toNat
  else none

theorem graphicPixel_getD (cfg : Config) (code : Nat) (fx fy : Bool) (color u v p : Nat) :
    let pen := cfg.gfx.apply [cfg.sprites.sprGfxSet, code, mirror fx 16 u, mirror fy 16 v]
    (graphicPixel cfg code fx fy color u v).getD p =
      if pen = cfg.sprites.sprTranspPen then p
      else min (cfg.sprites.sprColorBase + color * cfg.palette.pensPerColor + pen) (cfg.palette.paletteSize - 1) := by
  intro pen
  rw [graphicPixel, pixelIndex_getD]
  exact if_congr ((Transp.pen.injEq ..).to_iff.trans eq_comm) rfl rfl

theorem mem_tilePixels {u v : Nat} : (u, v) ∈ tilePixels ↔ u < 16 ∧ v < 16 := by
  simp [tilePixels, and_comm]

theorem HoldsScreen.drawSubtile (h : HoldsScreen cfg fb) (code : Nat) (X Y : Int) (fx fy : Bool) (color : Nat) :
    HoldsScreen cfg (drawSubtile cfg fb code X Y fx fy color) :=
  HoldsScreen.foldl (fun _ _ hfb => hfb.putPixel ..) tilePixels h

theorem pixelAt_drawSubtile (h : HoldsScreen cfg fb) (code : Nat) (X Y : Int) (fx fy : Bool) (color : Nat)
    {x y : Nat} (hx : x < cfg.screenW) (hy : y < cfg.screenH) :
    pixelAt (drawSubtile cfg fb code X Y fx fy color) x y =
      (subtilePixel cfg code X Y fx fy color x y).getD (pixelAt fb x y) := by
  refine pixelAt_foldl (fun _ _ hfb => hfb.putPixel ..)
    (val := fun p => if X + p.1 = x ∧ Y + p.2 = y then graphicPixel cfg code fx fy color p.1 p.2 else none)
    (fun fb p hfb => ?step) (fun p hp => ?agree) ?reached h
  case step =>
    rw [pixelAt_putPixel hfb _ _ _ _ _ _ hx hy, apply_ite (Option.getD · (pixelAt fb x y))]
    rfl
  case agree =>
    obtain ⟨hu, hv⟩ := mem_tilePixels.1 hp
    by_cases here : X + p.1 = x ∧ Y + p.2 = y
    · have hpu : (x - X).toNat = p.1 := by omega
      have hpv : (y - Y).toNat = p.2 := by omega
      exact .inr (by rw [if_pos here, subtilePixel, if_pos (by omega), hpu, hpv])
    · exact .inl (if_neg here)
  case reached =>
    by_cases inside : InRect X Y 16 16 x y
    · refine .inr ⟨((x - X).toNat, (y - Y).toNat), mem_tilePixels.2 (by omega), ?_⟩
      rw [if_pos (by omega), subtilePixel, if_pos inside]
    · exact .inl (if_neg inside)

/-! ### The sprite (R263 to R265) -/

/-- The code of the sub-tile of column i and row j of a sprite's source grid (R264, R270). -/
def subtileCode (sp : SpriteCfg) (r : SpriteRec) (j i : Nat) : Nat :=
  clampIdx (r.code + sp.subtile r.size j i) sp.numSpriteTiles

/-- Each place of the grid has one sub-tile: that of the place's mirror image under the flips. -/
theorem mem_subtiles {sp : SpriteCfg} {r : SpriteRec} {fx fy : Bool} {code di dj : Nat} :
    ⟨code, di, dj⟩ ∈ subtiles sp r fx fy ↔ di < sizeCols r.size ∧ dj < sizeRows r.size ∧
      code = subtileCode sp r (mirror fy (sizeRows r.size) dj) (mirror fx (sizeCols r.size) di) := by
  simp only [subtiles, List.mem_flatMap, List.mem_map, List.mem_range, Subtile.mk.injEq]
  constructor
  · rintro ⟨j, hj, i, hi, rfl, rfl, rfl⟩
    refine ⟨mirror_lt hi, mirror_lt hj, ?_⟩
    change _ = subtileCode sp r (mirror fy _ (mirror fy _ j)) (mirror fx _ (mirror fx _ i))
    rw [mirror_mirror hi, mirror_mirror hj]
    rfl
  · rintro ⟨hi, hj, rfl⟩
    exact ⟨_, mirror_lt hj, _, mirror_lt hi, rfl, mirror_mirror hi, mirror_mirror hj⟩

/-- What a sprite shows dx to the right of its corner and dy below it: the pixel of the sub-tile that covers the
place. -/
def sourcePixel (cfg : Config) (r : SpriteRec) (fx fy : Bool) (dx dy : Nat) : Option Nat :=
  graphicPixel cfg (subtileCode cfg.sprites r (mirror fy (sizeRows r.size) (dy / 16))
    (mirror fx (sizeCols r.size) (dx / 16))) fx fy r.color (dx % 16) (dy % 16)

/-- What a sprite placed at (X, Y) draws on screen pixel (x, y), `none` outside its rectangle. -/
def spritePixel (cfg : Config) (r : SpriteRec) (X Y : Int) (fx fy : Bool) (x y : Nat) : Option Nat :=
  if InRect X Y (16 * sizeCols r.size) (16 * sizeRows r.size) x y then
    sourcePixel cfg r fx fy (x - X).toNat (y - Y).toNat
  else none

theorem HoldsScreen.drawSpriteOn (h : HoldsScreen cfg fb) (r : SpriteRec) (fs : Bool) :
    HoldsScreen cfg (drawSpriteOn cfg fb r fs) :=
  HoldsScreen.foldl (fun _ _ hfb => hfb.drawSubtile ..) _ h

theorem pixelAt_drawSpriteOn (h : HoldsScreen cfg fb) {r : SpriteRec} {fs : Bool} {X Y : Int} {fx fy : Bool}
    (place : placeSprite cfg r fs = (X, Y, fx, fy)) {x y : Nat} (hx : x < cfg.screenW) (hy : y < cfg.screenH) :
    pixelAt (drawSpriteOn cfg fb r fs) x y = (spritePixel cfg r X Y fx fy x y).getD (pixelAt fb x y) := by
  rw [Machine.drawSpriteOn, place]
  refine pixelAt_foldl (fun _ _ hfb => hfb.drawSubtile ..) (fun _ _ hfb => pixelAt_drawSubtile hfb _ _ _ _ _ _ hx hy)
    (fun t ht => ?agree) ?reached h
  case agree =>
    obtain ⟨hi, hj, hcode⟩ := mem_subtiles.1 ht
    by_cases here : InRect (X + 16 * t.di) (Y + 16 * t.dj) 16 16 x y
    · have hdi : (x - X).toNat / 16 = t.di := by omega
      have hdj : (y - Y).toNat / 16 = t.dj := by omega
      have hu : (x - (X + 16 * t.di)).toNat = (x - X).toNat % 16 := by omega
      have hv : (y - (Y + 16 * t.dj)).toNat = (y - Y).toNat % 16 := by omega
      right
      rw [subtilePixel, if_pos here, spritePixel, if_pos (by omega), sourcePixel, hdi, hdj, hu, hv, hcode]
    · exact .inl (if_neg here)
  case reached =>
    by_cases inside : InRect X Y (16 * sizeCols r.size) (16 * sizeRows r.size) x y
    · have hi : (x - X).toNat / 16 < sizeCols r.size := by omega
      have hj : (y - Y).toNat / 16 < sizeRows r.size := by omega
      have hu : (x - (X + 16 * ((x - X).toNat / 16 : Nat))).toNat = (x - X).toNat % 16 := by omega
      have hv : (y - (Y + 16 * ((y - Y).toNat / 16 : Nat))).toNat = (y - Y).toNat % 16 := by omega
      refine .inr ⟨_, mem_subtiles.2 ⟨hi, hj, rfl⟩, ?_⟩
      rw [subtilePixel, if_pos (by dsimp only; omega), spritePixel, if_pos inside, sourcePixel, hu, hv]
    · exact .inl (if_neg inside)

end

/-! ### SPRITE.DRAW -/

theorem exec_spriteDraw (s : State) (r : SpriteRec) (fs : Bool) :
    exec (.spriteDraw r fs) s = .next (s.holdScreen.drawSprite r fs) := rfl

theorem sizeCols_eq (size : Fin 4) : sizeCols size = if size = 2 ∨ size = 3 then 2 else 1 := by
  revert size; decide

theorem sizeRows_eq (size : Fin 4) : sizeRows size = if size = 1 ∨ size = 3 then 2 else 1 := by
  revert size; decide

/-- Screen flip corrects the position and inverts both flips (R265). -/
theorem placeSprite_eq (cfg : Config) (r : SpriteRec) (fs : Bool) : placeSprite cfg r fs =
    (if fs then cfg.sprites.flipMaxX - r.x + (cfg.sprites.corr r.size).1 else r.x,
      if fs then cfg.sprites.flipMaxY - r.y + (cfg.sprites.corr r.size).2 else r.y,
      if fs then !r.flipX else r.flipX, if fs then !r.flipY else r.flipY) := by
  cases fs <;> rfl

theorem pixelAt_spriteDraw (s : State) (r : SpriteRec) (fs : Bool) {X Y : Int} {fx fy : Bool}
    (place : placeSprite s.cfg r fs = (X, Y, fx, fy)) {x y : Nat} (hx : x < s.cfg.screenW) (hy : y < s.cfg.screenH) :
    pixelAt (s.holdScreen.drawSprite r fs).fb x y = (spritePixel s.cfg r X Y fx fy x y).getD (pixelAt s.fb x y) := by
  have held := pixelAt_drawSpriteOn (holdsScreen_paint s.cfg s.fb fun _ _ => none) place hx hy
  rwa [pixelAt_paint _ _ _ hx hy] at held

/-- Settles O44: outside its rectangle the sprite draws nothing; inside it draws the pixel of one sub-tile. -/
theorem spriteDraw : Obligations.SpriteDraw := by
  intro s r fs sp X Y fx fy cols rows
  have hcols : sizeCols r.size = cols := sizeCols_eq r.size
  have hrows : sizeRows r.size = rows := sizeRows_eq r.size
  refine ⟨_, exec_spriteDraw s r fs, exec_unchanged (exec_spriteDraw s r fs), fun sx sy hx hy => ?_⟩
  rw [pixelAt_spriteDraw s r fs (placeSprite_eq s.cfg r fs) hx hy]
  change (_ → (spritePixel s.cfg r X Y fx fy sx sy).getD _ = _) ∧
    ∀ _ _, _ → _ → _ → _ → (spritePixel s.cfg r X Y fx fy sx sy).getD _ = _
  rw [spritePixel, hcols, hrows]
  refine ⟨fun outside => by rw [if_neg (by omega), Option.getD_none], fun dx dy hdx hdy hw hh => ?_⟩
  have hX : ((sx : Int) - X).toNat = dx := by omega
  have hY : ((sy : Int) - Y).toNat = dy := by omega
  rw [if_pos (by omega), hX, hY, sourcePixel, hcols, hrows]
  exact graphicPixel_getD ..

end Sys2Proof.Machine
end

section
/-! PROOFS. COMPOSE as a run of operations (R252, R269, R271): on a frame buffer that holds the screen, as the
background fill leaves it, LAYER.DRAW and SPRITE.DRAW do what the composition does item by item. -/

namespace Sys2Proof.Machine

/-! ### Runs of operations, item by item -/

/-- A run whose operations come item by item is the fold of what each item's operations do. -/
theorem execAll_flatMap {β : Type} {ops : β → List Instr} {f : State → β → State} {P : State → Prop} {bs : List β}
    (run : ∀ t, P t → ∀ b ∈ bs, execAll (ops b) t = .next (f t b)) (keep : ∀ t b, P t → P (f t b)) {t : State}
    (h : P t) : execAll (bs.flatMap ops) t = .next (bs.foldl f t) := by
  induction bs generalizing t with
  | nil => rfl
  | cons b bs ih =>
    rw [List.flatMap_cons, List.foldl_cons, execAll_append (run t h b List.mem_cons_self)]
    exact ih (fun t ht c hc => run t ht c (List.mem_cons_of_mem _ hc)) (keep t b h)

/-! ### A drawing in progress -/

/-- t is s with some frame buffer that holds the screen: what a drawing leaves at each of its steps. -/
def State.Drawing (s t : State) : Prop := ∃ fb, HoldsScreen s.cfg fb ∧ t = { s with fb := fb }

theorem State.Drawing.layer {s t : State} (h : s.Drawing t) (l : Nat) (fs : Bool) : s.Drawing (t.drawLayer l fs) := by
  obtain ⟨fb, held, rfl⟩ := h
  unfold State.drawLayer
  split
  · exact ⟨_, holdsScreen_paint .., rfl⟩
  · exact ⟨fb, held, rfl⟩

theorem State.Drawing.sprite {s t : State} (h : s.Drawing t) (r : SpriteRec) (fs : Bool) :
    s.Drawing (t.drawSprite r fs) := by
  obtain ⟨fb, held, rfl⟩ := h
  exact ⟨_, held.drawSpriteOn r fs, rfl⟩

/-- While the frame buffer holds the screen, SPRITE.DRAW draws on it as it is. -/
theorem State.Drawing.exec_spriteDraw {s t : State} (h : s.Drawing t) (r : SpriteRec) (fs : Bool) :
    exec (.spriteDraw r fs) t = .next (t.drawSprite r fs) := by
  obtain ⟨fb, held, rfl⟩ := h
  have same : State.holdScreen { s with fb := fb } = { s with fb := fb } :=
    congrArg (fun fb => { s with fb := fb }) held.paint_none
  rw [Machine.exec_spriteDraw, same]

/-! ### One item of the draw order -/

theorem prioMatch_eq (cfg : Config) (r : SpriteRec) (p : Option Nat) : prioMatch cfg r p =
    if cfg.sprites.layout.prio.isSome then decide (p = some r.prio) else decide (p = none) := by
  unfold prioMatch
  cases cfg.sprites.layout.prio <;> exact beq_eq_decide ..

/-- The operation that entry n is in the item of group p: none where it is skipped or of another priority (R252). -/
def State.entryDraw (s : State) (fs : Bool) (p : Option Nat) (n : Nat) : Option Instr :=
  (s.decodeSprite n).bind fun r => if prioMatch s.cfg r p then some (.spriteDraw r fs) else none

/-- The operations of one item of `DRAW_ORDER` (R252, R269, R271). -/
def State.itemDraws (s : State) (fs : Bool) : DrawItem → List Instr
  | .layer l => [.layerDraw l fs]
  | .sprites p => s.cfg.sprites.spriteOrder.filterMap (s.entryDraw fs p)

/-- What a composition does for entry n in the item of group p. -/
def State.drawEntry (s : State) (fs : Bool) (p : Option Nat) (n : Nat) : State :=
  match s.decodeSprite n with
  | some r => if prioMatch s.cfg r p then s.drawSprite r fs else s
  | none => s

theorem State.drawItem_sprites (s : State) (fs : Bool) (p : Option Nat) :
    s.drawItem fs (.sprites p) = s.cfg.sprites.spriteOrder.foldl (fun t n => t.drawEntry fs p n) s := rfl

theorem State.Drawing.entry {s t : State} (h : s.Drawing t) (fs : Bool) (p : Option Nat) (n : Nat) :
    s.Drawing (t.drawEntry fs p n) := by
  unfold State.drawEntry
  split
  · split
    · exact h.sprite ..
    · exact h
  · exact h

/-- The registers and bytes that decide what an entry draws are those of the start (R252). -/
theorem State.Drawing.execAll_entryDraw {s t : State} (h : s.Drawing t) (fs : Bool) (p : Option Nat) (n : Nat) :
    execAll (s.entryDraw fs p n).toList t = .next (t.drawEntry fs p n) := by
  have decoded : t.decodeSprite n = s.decodeSprite n := by obtain ⟨fb, -, rfl⟩ := h; rfl
  have cfg : t.cfg = s.cfg := by obtain ⟨fb, -, rfl⟩ := h; rfl
  rw [State.entryDraw, State.drawEntry, decoded, cfg]
  cases s.decodeSprite n with
  | none => rfl
  | some r =>
    simp only [Option.bind_some]
    split
    · rw [Option.toList_some, execAll_cons (h.exec_spriteDraw r fs), execAll]
    · rfl

theorem State.Drawing.item {s t : State} (h : s.Drawing t) (fs : Bool) (item : DrawItem) :
    s.Drawing (t.drawItem fs item) := by
  cases item with
  | layer l => exact h.layer l fs
  | sprites p =>
    rw [State.drawItem_sprites]
    exact List.foldlRecOn _ _ h fun _ hu n _ => hu.entry fs p n

/-- The operations of an item, its layer present, do what the composition does for it. -/
theorem State.Drawing.execAll_itemDraws {s t : State} (h : s.Drawing t) (fs : Bool) {item : DrawItem}
    (present : ∀ l, item = .layer l → l < s.cfg.layers.length) :
    execAll (s.itemDraws fs item) t = .next (t.drawItem fs item) := by
  have cfg : t.cfg = s.cfg := by obtain ⟨fb, -, rfl⟩ := h; rfl
  cases item with
  | layer l =>
    have hl : t.cfg.layers[l]? = some _ :=
      (congrArg (·.layers[l]?) cfg).trans (List.getElem?_eq_getElem (present l rfl))
    rw [State.itemDraws, execAll_cons (exec_layerDraw hl fs), execAll]
    rfl
  | sprites p =>
    rw [State.itemDraws, List.filterMap_eq_flatMap_toList, State.drawItem_sprites, cfg]
    exact execAll_flatMap (P := s.Drawing) (fun _ hu n _ => hu.execAll_entryDraw fs p n)
      (fun _ n hu => hu.entry fs p n) h

/-! ### The frame -/

/-- From the background fill, the operations of `DRAW_ORDER` leave what the composition draws (R252). -/
theorem State.execAll_drawFrame {s : State}
    (present : ∀ l, DrawItem.layer l ∈ s.cfg.drawOrder → l < s.cfg.layers.length) :
    execAll (s.cfg.drawOrder.flatMap (s.itemDraws s.flipScreen))
      { s with fb := fillScreen s.cfg s.cfg.palette.bgPen } = .next s.drawFrame :=
  execAll_flatMap (P := s.Drawing)
    (fun _ h _ hitem => h.execAll_itemDraws s.flipScreen fun l hl => present l (hl ▸ hitem))
    (fun _ item h => h.item s.flipScreen item) ⟨_, holdsScreen_fillScreen .., rfl⟩

/-- Settles O46: the composition's frame buffer is that of the run of its draws. -/
theorem composeOrder : Obligations.ComposeOrder := by
  intro s present fs matchPrio draws
  have hdraws : draws = s.itemDraws s.flipScreen := by
    funext item
    cases item with
    | layer l => rfl
    | sprites p =>
      refine congrArg (List.filterMap · _) (funext fun n => congrArg _ (funext fun r => ?_))
      exact congrArg (fun drawn : Bool => if drawn then some (Instr.spriteDraw r fs) else none)
        (prioMatch_eq s.cfg r p).symm
  obtain ⟨d, hd⟩ := s.composed_eq
  exact ⟨s.composed, s.drawFrame, rfl, hdraws ▸ State.execAll_drawFrame present, hd ▸ rfl⟩

end Sys2Proof.Machine
end

section
/-! PROOFS. The scheduler's step and the opening and end of a slice (R300, R310, R311): one operation after another, the
equations of a slice that has opened, and what a step runs when no transaction stands next. -/

namespace Sys2Proof.Machine

/-! ### One operation after another -/

/-- Goes on from the next state; a fault or a refusal stays the answer. -/
def Outcome.andThen (o : Host.Outcome State Fault Refusal) (f : State → Host.Outcome State Fault Refusal) :
    Host.Outcome State Fault Refusal :=
  match o with
  | .next t => f t
  | .fault r => .fault r
  | .refused r => .refused r

@[simp] theorem Outcome.next_andThen (t : State) (f : State → Host.Outcome State Fault Refusal) :
    Outcome.andThen (.next t) f = f t := rfl
@[simp] theorem Outcome.fault_andThen (r : Fault) (f : State → Host.Outcome State Fault Refusal) :
    Outcome.andThen (.fault r) f = .fault r := rfl
@[simp] theorem Outcome.refused_andThen (r : Refusal) (f : State → Host.Outcome State Fault Refusal) :
    Outcome.andThen (.refused r) f = .refused r := rfl

theorem Outcome.andThen_assoc (o : Host.Outcome State Fault Refusal)
    (f g : State → Host.Outcome State Fault Refusal) :
    Outcome.andThen (Outcome.andThen o f) g = Outcome.andThen o fun t => Outcome.andThen (f t) g := by
  cases o <;> rfl

/-- What follows matters only in the state that was reached. -/
theorem Outcome.andThen_congr {o : Host.Outcome State Fault Refusal}
    {f g : State → Host.Outcome State Fault Refusal} (h : ∀ t, o = .next t → f t = g t) :
    Outcome.andThen o f = Outcome.andThen o g := by
  cases o with
  | next t => exact h t rfl
  | fault r => rfl
  | refused r => rfl

theorem Outcome.andThen_eq_next {o : Host.Outcome State Fault Refusal}
    {f : State → Host.Outcome State Fault Refusal} {u : State} :
    Outcome.andThen o f = .next u ↔ ∃ t, o = .next t ∧ f t = .next u := by
  cases o <;> simp

theorem execAll_cons_eq (i : Instr) (is : List Instr) (s : State) :
    execAll (i :: is) s = Outcome.andThen (exec i s) (execAll is) := by
  rw [execAll]
  cases exec i s <;> rfl

theorem execAll_singleton (i : Instr) (s : State) : execAll [i] s = exec i s := by
  rw [execAll]
  cases exec i s <;> rfl

theorem execAll_pair_eq (i j : Instr) (s : State) : execAll [i, j] s = Outcome.andThen (exec i s) (exec j) := by
  rw [execAll_cons_eq]
  exact Outcome.andThen_congr fun t _ => execAll_singleton j t

/-! ### The opening of a slice (R311) -/

theorem dropQuery_query (c : Nat) (rest : List ScriptLine) : dropQuery c (some (.query c) :: rest) = rest := by
  rw [dropQuery, if_pos rfl]

theorem dropQuery_of_ne {c : Nat} {ws : List ScriptLine} (h : ∀ r, ws ≠ some (.query c) :: r) : dropQuery c ws = ws := by
  cases ws with
  | nil => rfl
  | cons w ws => rw [dropQuery, if_neg (by rintro rfl; exact h ws rfl)]

theorem State.queryDue_iff {s : State} {cpu : CpuCfg} (hcpu : s.cfg.cpus[s.turn]? = some cpu) :
    s.queryDue = true ↔ s.round % cpu.queryPeriod = 0 := by
  simp [State.queryDue, hcpu]

theorem State.hasCpu_of_queryDue {s : State} (h : s.queryDue = true) : s.cfg.hasCpu s.turn = true := by
  unfold State.queryDue at h
  split at h
  · next hcpu => exact hasCpu_of_getElem? hcpu
  · cases h

/-- The slice opens on the script without the `Q` line of its opening query, where one is due. -/
theorem State.opened_eq {s : State} {rest : List ScriptLine}
    (h : (s.queryDue = true ∧ s.input = some (.query s.turn) :: rest) ∨
      (s.input = rest ∧ (s.queryDue = true → ∀ r, rest ≠ some (.query s.turn) :: r))) :
    s.opened = { s with slicePos := .ready, input := rest } := by
  have hinput : (if s.queryDue then dropQuery s.turn s.input else s.input) = rest := by
    obtain ⟨due, hline⟩ | ⟨rfl, noLine⟩ := h
    · rw [if_pos due, hline, dropQuery_query]
    · split
      · next due => exact dropQuery_of_ne (noLine due)
      · rfl
  unfold State.opened
  rw [hinput]

theorem State.opened_of_not_due {s : State} (h : ¬s.queryDue = true) : s.opened = { s with slicePos := .ready } :=
  s.opened_eq (.inr ⟨rfl, fun due => absurd due h⟩)

/-- The opening of a slice runs the query where it is due, and completes. -/
theorem State.openSlice_eq_exec {s : State} (h : s.queryDue = true) :
    exec (.intQuery s.turn false) s.opened = .next s.openSlice := by
  have runs := exec_intQuery (s := s.opened) (c := s.turn) (State.hasCpu_of_queryDue h) false
  rw [runs, State.openSlice, if_pos h]

theorem State.openSlice_of_not_due {s : State} (h : ¬s.queryDue = true) : s.openSlice = { s with slicePos := .ready } := by
  rw [State.openSlice, if_neg h, s.opened_of_not_due h]

theorem stepOpen_eq (s : State) : stepOpen s = .next s.openSlice := by
  unfold stepOpen
  split
  · next due => exact State.openSlice_eq_exec due
  · next notDue => rw [State.openSlice, if_neg notDue]

/-! ### What a step runs -/

section
variable {s : State} (hslot : s.slot = none)
include hslot

theorem step_of_setup (hphase : s.phase = .setup) : step s = exec .configCheck s := by
  simp only [step, stepBlock, hslot, hphase]

theorem step_of_configError (hphase : s.phase = .configError) : step s = .refused .configError := by
  simp only [step, stepBlock, hslot, hphase]

variable (hphase : s.phase = .running)
include hphase

theorem step_of_lastSlice (hround : s.cfg.slices ≤ s.round) : step s = exec .schedFrame s := by
  simp only [step, stepBlock, stepRunning, hslot, hphase, if_pos hround]

theorem step_of_start (hround : s.round < s.cfg.slices) (hpos : s.slicePos = .start) : step s = stepOpen s := by
  simp only [step, stepBlock, stepRunning, hslot, hphase, if_neg (Nat.not_le.2 hround), if_pos hpos]

theorem step_of_sliceEnd (hround : s.round < s.cfg.slices) (hpos : s.slicePos ≠ .start)
    (hend : s.input = [] ∨ ∃ rest, s.input = some .slice :: rest) : step s = exec .schedSlice s := by
  obtain hend | ⟨rest, hend⟩ := hend <;>
    simp only [step, stepBlock, stepRunning, hslot, hphase, if_neg (Nat.not_le.2 hround), if_neg hpos, hend, if_true]

end

/-- In an open slice, right after a transaction, the `Q` line of the current CPU is the early query of R169. -/
theorem State.midSlice_query {s : State} (hpos : s.slicePos = .afterTxn) (hyield : s.yieldReq = false)
    (rest : List ScriptLine) :
    s.midSlice (some (.query s.turn)) rest =
      exec (.intQuery s.turn true) { s with slicePos := .ready, input := rest } := by
  rw [State.midSlice, if_pos ⟨rfl, hpos, hyield⟩, exec]

/-- Settles O3: the step's own case split, clause by clause. -/
theorem stepRunsScheduler : Obligations.StepRunsScheduler := by
  intro s hslot
  refine ⟨step_of_setup hslot, step_of_lastSlice hslot, fun hphase hround =>
    ⟨fun cpu rest hpos hcpu hinput due => ?opening, fun cpu hpos hcpu notDue => ?noQuery,
      fun hpos hend => step_of_sliceEnd hslot hphase hround hpos (.inl hend),
      fun rest hpos hend => step_of_sliceEnd hslot hphase hround hpos (.inr ⟨rest, hend⟩),
      fun rest hpos hyield hinput => ?early⟩⟩
  case opening =>
    have due := (State.queryDue_iff hcpu).2 due
    have opened := s.opened_eq (rest := rest)
      (hinput.imp (fun h => ⟨due, h⟩) fun ⟨h, noLine⟩ => ⟨h, fun _ => noLine⟩)
    rw [step_of_start hslot hphase hround hpos, stepOpen_eq, ← State.openSlice_eq_exec due, opened]
  case noQuery =>
    have notDue := mt (State.queryDue_iff hcpu).1 notDue
    rw [step_of_start hslot hphase hround hpos, stepOpen_eq, State.openSlice_of_not_due notDue]
  case early =>
    rw [step_eq_midSlice hslot hphase hround (by rw [hpos]; exact nofun) hinput nofun,
      State.midSlice_query hpos hyield]

end Sys2Proof.Machine
end

section
/-! PROOFS. CONFIG.CHECK as an operation (R300, R305). -/

namespace Sys2Proof.Machine

theorem State.checked_of_passed {s : State} (h : checkConfig s.cfg = none) : s.checked = { s with phase := .running } := by
  simp only [State.checked, h]

theorem State.checked_of_failed {s : State} {e : ConfigError} (h : checkConfig s.cfg = some e) :
    s.checked = { s with phase := .configError, error := some e } := by
  simp only [State.checked, h]

theorem exec_configCheck_of_setup {s : State} (h : s.phase = .setup) : exec .configCheck s = .next s.checked := by
  simp only [exec, execConfigCheck, h]

/-- A part that is as it was drops out of the frame. -/
theorem Unchanged.drop {s t : State} {p : Part} {ps : List Part} (h : Unchanged s t (p :: ps)) (same : Part.same s t p) :
    Unchanged s t ps := by
  intro q hq
  by_cases hqp : q = p
  · exact hqp ▸ same
  · exact h q (by simp [hqp, hq])

/-- A check that passes starts the machine and leaves the error alone too. -/
theorem State.unchanged_checked_of_passed {s : State} (h : checkConfig s.cfg = none) :
    Unchanged s s.checked [.phase] := by
  refine Unchanged.drop (p := .error) (State.unchanged_checked.mono (by decide)) ?_
  rw [State.checked_of_passed h]
  exact Part.same_refl s .error

/-- Settles O48. -/
theorem configCheck : Obligations.ConfigCheck := by
  refine fun s => ⟨fun hphase pass => ?pass, fun e hphase fail => ?fail, fun hphase => ?running, fun hphase => ?error⟩
  case pass =>
    exact ⟨s.checked, exec_configCheck_of_setup hphase, by rw [State.checked_of_passed pass],
      State.unchanged_checked_of_passed pass⟩
  case fail =>
    exact ⟨s.checked, exec_configCheck_of_setup hphase, by rw [State.checked_of_failed fail],
      by rw [State.checked_of_failed fail], State.unchanged_checked⟩
  case running => simp only [exec, execConfigCheck, hphase]
  case error => simp only [exec, execConfigCheck, hphase]

end Sys2Proof.Machine
end

section
/-! PROOFS. Which error CONFIG.CHECK records (R300, R305): what the meaning computes, code by code, is the first failure
among the visits of R300's loop. -/

namespace Sys2Proof.Machine

/-! ### The first answer of a search -/

theorem findSome?_flatMap {α β γ : Type} (f : α → List β) (g : β → Option γ) (xs : List α) :
    (xs.flatMap f).findSome? g = xs.findSome? fun a => (f a).findSome? g := by
  induction xs with
  | nil => rfl
  | cons a xs ih =>
    rw [List.flatMap_cons, List.findSome?_append, ih, List.findSome?_cons]
    cases (f a).findSome? g <;> rfl

theorem findSome?_congr_mem {α β : Type} {f g : α → Option β} {xs : List α} (h : ∀ x ∈ xs, f x = g x) :
    xs.findSome? f = xs.findSome? g := by
  induction xs with
  | nil => rfl
  | cons a xs ih =>
    obtain ⟨ha, hxs⟩ := List.forall_mem_cons.1 h
    rw [List.findSome?_cons, List.findSome?_cons, ha, ih hxs]

theorem map_find? {α β : Type} (p : α → Bool) (g : α → β) (xs : List α) :
    (xs.find? p).map g = xs.findSome? fun a => if p a then some (g a) else none := by
  induction xs with
  | nil => rfl
  | cons a xs ih =>
    rw [List.find?_cons, List.findSome?_cons, ← ih]
    cases p a <;> rfl

/-! ### One visit -/

open Classical in
/-- What the visit of an object by a check records: the code and the object where the object fails the check (R300). -/
noncomputable def visitError (cfg : Config) (visit : CheckCode × CheckObject) : Option ConfigError :=
  if CheckFails cfg visit.1 visit.2 then some ⟨visit.1, visit.2.reported⟩ else none

theorem visitError_eq_some {cfg : Config} {code : CheckCode} {o : CheckObject} {err : ConfigError} :
    visitError cfg (code, o) = some err ↔ err = ⟨code, o.reported⟩ ∧ CheckFails cfg code o := by
  simp only [visitError]
  split <;> simp_all [eq_comm]

theorem visitError_eq_none {cfg : Config} {visit : CheckCode × CheckObject} :
    visitError cfg visit = none ↔ ¬CheckFails cfg visit.1 visit.2 := by
  simp [visitError]

/-- A test that agrees with the check's wording gives the same record. -/
theorem visitError_of_test {cfg : Config} {code : CheckCode} {o : CheckObject} {ok : Bool}
    (h : CheckFails cfg code o ↔ ok = false) :
    visitError cfg (code, o) = if !ok then some ⟨code, o.reported⟩ else none := by
  cases ok <;> simp [visitError, h]

/-! ### The checks that visit entries -/

theorem entryObjects_findSome? {γ : Type} (cfg : Config) (f : CheckObject → Option γ) :
    (entryObjects cfg).findSome? f = (List.range cfg.cpus.length).findSome? fun c =>
      [Dir.read, .write].findSome? fun dir =>
        (withBefore [] (cfg.map c dir)).findSome? fun p => f (.entry c dir p.1 p.2) := by
  unfold entryObjects
  simp only [findSome?_flatMap, List.findSome?_map, Function.comp_def]

theorem located_findSome? {γ : Type} (cfg : Config) (f : Located → Option γ) :
    (Located.all cfg).findSome? f = (List.range cfg.cpus.length).findSome? fun c =>
      [Dir.read, .write].findSome? fun dir => (cfg.map c dir).findSome? fun e => f ⟨c, dir, e⟩ := by
  have byDir : Located.all cfg = (List.range cfg.cpus.length).flatMap fun c =>
      [Dir.read, .write].flatMap fun dir => (cfg.map c dir).map fun e => ⟨c, dir, e⟩ := by
    simp only [Located.all, List.flatMap_cons, List.flatMap_nil, List.append_nil]
  rw [byDir]
  simp only [findSome?_flatMap, List.findSome?_map, Function.comp_def]

theorem withBefore_map_snd (before es : List Entry) : (withBefore before es).map (·.2) = es := by
  induction es generalizing before with
  | nil => rfl
  | cons e es ih => rw [withBefore, List.map_cons, ih]

/-- A check that looks at the entry alone does not see the entries before it. -/
theorem withBefore_findSome?_snd {γ : Type} (g : Entry → Option γ) (before es : List Entry) :
    ((withBefore before es).findSome? fun p => g p.2) = es.findSome? g := by
  conv_rhs => rw [← withBefore_map_snd before es, List.findSome?_map]
  rfl

theorem firstEntry_eq_visits {cfg : Config} {code : CheckCode} {ok : Located → Bool}
    (h : ∀ c dir before e, EntryFails cfg c dir before e code ↔ ok ⟨c, dir, e⟩ = false) :
    firstEntry cfg code ok = (entryObjects cfg).findSome? fun o => visitError cfg (code, o) := by
  rw [firstEntry, map_find?, located_findSome?, entryObjects_findSome?]
  congr 1; funext c; congr 1; funext dir
  rw [← withBefore_findSome?_snd _ [] (cfg.map c dir)]
  congr 1; funext p
  exact (visitError_of_test (o := .entry c dir p.1 p.2) (h c dir p.1 p.2)).symm

/-- The first entry that may not follow those before it (code 5). -/
theorem map_firstOverlap {γ : Type} (g : Entry → γ) (before es : List Entry) :
    (firstOverlap before es).map g =
      (withBefore before es).findSome? fun p => if !follows p.1 p.2 then some (g p.2) else none := by
  induction es generalizing before with
  | nil => rfl
  | cons e es ih =>
    rw [firstOverlap, withBefore, List.findSome?_cons]
    cases hf : follows before e
    · rfl
    · exact ih (before ++ [e])

theorem overlapError_eq_visits (cfg : Config) :
    overlapError cfg = (entryObjects cfg).findSome? fun o => visitError cfg (.overlap, o) := by
  rw [overlapError, entryObjects_findSome?]
  congr 1; funext c; congr 1; funext dir
  rw [map_firstOverlap]
  congr 1; funext p
  exact (visitError_of_test (code := .overlap) (o := .entry c dir p.1 p.2) (follows_eq_false cfg c dir p.1 p.2)).symm

/-! ### The checks that visit banks and parameters -/

theorem bankError_eq_visits (cfg : Config) :
    bankError cfg = ((List.range cfg.banks.length).map CheckObject.bank).findSome?
      fun o => visitError cfg (.bank, o) := by
  rw [bankError, List.findSome?_map]
  refine findSome?_congr_mem fun k hk => ?_
  obtain ⟨bank, hbank⟩ : ∃ bank, cfg.banks[k]? = some bank := ⟨_, List.getElem?_eq_getElem (List.mem_range.1 hk)⟩
  have test : CheckFails cfg .bank (.bank k) ↔ bankOk cfg k bank = false := by
    simp [CheckFails, bankOk_iff cfg k bank hbank]
  rw [hbank, Function.comp_apply, visitError_of_test test]
  cases hok : bankOk cfg k bank <;> simp [hok, CheckObject.reported]

theorem paramError_eq_visits (cfg : Config) :
    paramError cfg = (paramOrder.map CheckObject.param).findSome? fun o => visitError cfg (.param, o) := by
  have order : paramOrder = (paramChecks cfg).map (·.1) := rfl
  rw [paramError, map_find?, order, List.map_map, List.findSome?_map]
  refine findSome?_congr_mem fun p hp => ?_
  have test : CheckFails cfg .param (.param p.1) ↔ p.2 = false := by
    simp [CheckFails, ← paramChecks_iff cfg p hp]
  exact (visitError_of_test test).symm

/-! ### The whole check -/

/-- The first failure of each code, as the meaning computes it. -/
def checkError (cfg : Config) : CheckCode → Option ConfigError
  | .tag => firstEntry cfg .tag tagOk
  | .direction => firstEntry cfg .direction (directionOk cfg)
  | .role => firstEntry cfg .role (roleOk cfg)
  | .range => firstEntry cfg .range (rangeOk cfg)
  | .overlap => overlapError cfg
  | .bounds => firstEntry cfg .bounds (boundsOk cfg)
  | .bank => bankError cfg
  | .shared => firstEntry cfg .shared (sharedOk cfg)
  | .param => paramError cfg

theorem checkConfig_eq_findSome? (cfg : Config) : checkConfig cfg = checkOrder.findSome? (checkError cfg) := by
  have order : checkConfig cfg = (checkOrder.map (checkError cfg)).findSome? id := rfl
  rw [order, List.findSome?_map, Function.id_comp]

/-- For each check, the objects in configuration order (R300). -/
theorem checkError_eq_visits (cfg : Config) (code : CheckCode) :
    checkError cfg code = (checkObjects cfg code).findSome? fun o => visitError cfg (code, o) := by
  cases code with
  | tag => exact firstEntry_eq_visits (tagOk_eq_false cfg)
  | direction => exact firstEntry_eq_visits (directionOk_eq_false cfg)
  | role => exact firstEntry_eq_visits (roleOk_eq_false cfg)
  | range => exact firstEntry_eq_visits (rangeOk_eq_false cfg)
  | overlap => exact overlapError_eq_visits cfg
  | bounds => exact firstEntry_eq_visits (boundsOk_eq_false cfg)
  | bank => exact bankError_eq_visits cfg
  | shared => exact firstEntry_eq_visits (sharedOk_eq_false cfg)
  | param => exact paramError_eq_visits cfg

/-- CONFIG.CHECK answers with the first failure among its visits. -/
theorem checkConfig_eq_visits (cfg : Config) : checkConfig cfg = (checkVisits cfg).findSome? (visitError cfg) := by
  rw [checkConfig_eq_findSome?, checkVisits, findSome?_flatMap]
  congr 1; funext code
  rw [checkError_eq_visits, List.findSome?_map]
  rfl

/-- Settles O59. -/
theorem checkReports : Obligations.CheckReports := by
  intro cfg
  rw [checkConfig_eq_visits]
  refine ⟨fun err => ?recorded, by simp only [List.findSome?_eq_none_iff, visitError_eq_none]⟩
  rw [List.findSome?_eq_some_iff]
  constructor
  · rintro ⟨before, ⟨code, o⟩, after, visits, hfail, hbefore⟩
    obtain ⟨herr, fails⟩ := visitError_eq_some.1 hfail
    exact ⟨before, code, o, after, visits, herr, fails, fun x hx => visitError_eq_none.1 (hbefore x hx)⟩
  · rintro ⟨before, code, o, after, visits, herr, fails, hbefore⟩
    exact ⟨before, (code, o), after, visits, visitError_eq_some.2 ⟨herr, fails⟩,
      fun x hx => visitError_eq_none.2 (hbefore x hx)⟩

end Sys2Proof.Machine
end

section
/-! PROOFS. A slice, one event at a time (R311): the equation of SCHED.SLICE at each position of the slice, and that a
machine which keeps the invariant is never stuck (R320). -/

namespace Sys2Proof.Machine

/-! ### A slice that has opened -/

/-- The machine runs, its frame has slices left, and the current slice has opened (R310, R311). -/
structure State.InSlice (s : State) : Prop where
  phase : s.phase = .running
  round : s.round < s.cfg.slices
  pos : s.slicePos ≠ .start

/-- An open slice is what its loop answers, and its end (R311). -/
theorem State.runSlice_of_open {s : State} (hpos : s.slicePos ≠ .start) :
    s.runSlice = Outcome.andThen (sliceLoop s.input s) fun u => .next u.endSlice := by
  simp only [State.runSlice, if_neg hpos]
  cases sliceLoop s.input s <;> rfl

theorem exec_schedSlice_eq {s : State} (hphase : s.phase = .running) (hround : s.round < s.cfg.slices) :
    exec .schedSlice s = s.runSlice := by
  simp only [exec, execSchedSlice, if_pos hphase, if_pos hround]

/-- What is left of the slice: its events up to the SLICE line, and its end. -/
theorem State.InSlice.exec_eq {s : State} (h : s.InSlice) :
    exec .schedSlice s = Outcome.andThen (sliceLoop s.input s) fun u => .next u.endSlice := by
  rw [exec_schedSlice_eq h.phase h.round, State.runSlice_of_open h.pos]

theorem sliceLoop_cons {w : ScriptLine} (hw : w ≠ some .slice) (rest : List ScriptLine) (s : State) :
    sliceLoop (w :: rest) s = Outcome.andThen (s.midSlice w rest) (sliceLoop rest) := by
  rw [sliceLoop, if_neg hw]
  cases s.midSlice w rest <;> rfl

/-- A transaction that completes is the operation that its line selects, the line taken off the script (R120). -/
theorem State.present_eq_next {s t : State} {c a : Nat} {dir : Dir} {d : Byte} {rest : List ScriptLine}
    (h : s.present c dir a d rest = .next t) :
    ∃ i, performTxn i { s with slicePos := .afterTxn, input := rest } = .next t := by
  unfold State.present at h
  split at h
  · split at h
    · cases h
    · split at h
      · cases h
      · split at h
        · exact ⟨_, h⟩
        · cases h
  · cases h

/-- What an event of a slice can do: the operation of a transaction, or an early query (R169, R311). -/
theorem State.midSlice_eq_next {s t : State} {w : ScriptLine} {rest : List ScriptLine}
    (h : s.midSlice w rest = .next t) :
    (∃ i, performTxn i { s with slicePos := .afterTxn, input := rest } = .next t) ∨
      ∃ c, t = State.query { s with slicePos := .ready, input := rest } c true := by
  unfold State.midSlice at h
  split at h
  · exact .inl (State.present_eq_next h)
  · exact .inl (State.present_eq_next h)
  · split at h
    · exact .inr ⟨_, Outcome.eq_of_whenObject h⟩
    · cases h
  · cases h

/-- An event takes its line off the script and leaves the slice open. -/
theorem State.midSlice_moves {s t : State} {w : ScriptLine} {rest : List ScriptLine} (h : s.midSlice w rest = .next t) :
    t.input = rest ∧ t.slicePos ≠ .start := by
  obtain ⟨i, hi⟩ | ⟨c, rfl⟩ := State.midSlice_eq_next h
  · have kept := (performTxn_kept _ _ _ hi).2
    exact ⟨kept.input, by rw [kept.pos]; exact nofun⟩
  · have kept := (Kept.query { s with slicePos := .ready, input := rest } c true).2
    exact ⟨kept.input, by rw [kept.pos]; exact nofun⟩

theorem State.InSlice.of_midSlice {s t : State} {w : ScriptLine} {rest : List ScriptLine} (h : s.InSlice)
    (ht : s.midSlice w rest = .next t) : t.InSlice := by
  have same := State.midSlice_sameTurn ht
  exact ⟨same.phase.trans h.phase, by rw [same.round, same.cfg]; exact h.round, (State.midSlice_moves ht).2⟩

/-- A slice that has opened performs the script's next line and goes on (R311). -/
theorem State.InSlice.exec_cons {s : State} (h : s.InSlice) {w : ScriptLine} {rest : List ScriptLine}
    (hinput : s.input = w :: rest) (hw : w ≠ some .slice) :
    exec .schedSlice s = Outcome.andThen (s.midSlice w rest) (exec .schedSlice) := by
  rw [h.exec_eq, hinput, sliceLoop_cons hw, Outcome.andThen_assoc]
  refine Outcome.andThen_congr fun t ht => ?_
  rw [(h.of_midSlice ht).exec_eq, (State.midSlice_moves ht).1]

/-- Where the environment ends it, the slice ends with its SLICE line taken off (R311; log entry 6). -/
theorem State.InSlice.exec_end {s : State} (h : s.InSlice) {rest : List ScriptLine}
    (hend : (s.input = [] ∧ rest = []) ∨ s.input = some .slice :: rest) :
    exec .schedSlice s = .next { s with input := rest }.endSlice := by
  rw [h.exec_eq]
  obtain ⟨hinput, rfl⟩ | hinput := hend
  · rw [hinput, sliceLoop, ← hinput]; rfl
  · rw [hinput, sliceLoop, if_pos rfl]; rfl

/-! ### A slice that has not opened -/

theorem State.openSlice_pos (s : State) : s.openSlice.slicePos = .ready := by
  unfold State.openSlice
  split
  · exact (Kept.query s.opened s.turn false).2.pos
  · rfl

theorem State.openSlice_inSlice {s : State} (hphase : s.phase = .running) (hround : s.round < s.cfg.slices) :
    s.openSlice.InSlice := by
  have same := s.openSlice_sameTurn
  exact ⟨same.phase.trans hphase, by rw [same.round, same.cfg]; exact hround, by rw [s.openSlice_pos]; exact nofun⟩

/-- A slice that has not opened opens, and is then a slice that has opened. -/
theorem exec_schedSlice_of_start {s : State} (hphase : s.phase = .running) (hround : s.round < s.cfg.slices)
    (hpos : s.slicePos = .start) : exec .schedSlice s = exec .schedSlice s.openSlice := by
  rw [(State.openSlice_inSlice hphase hround).exec_eq, exec_schedSlice_eq hphase hround]
  simp only [State.runSlice, if_pos hpos]
  cases sliceLoop s.openSlice.input s.openSlice <;> rfl

/-! ### Lines that make the script invalid -/

theorem State.present_invalid {s : State} {c : Nat} (h : c ≠ s.turn ∨ s.yieldReq = true) (dir : Dir) (a : Nat) (d : Byte)
    (rest : List ScriptLine) : s.present c dir a d rest = .refused .scriptInvalid := by
  unfold State.present
  split
  · rw [if_pos h]
  · rfl

theorem State.midSlice_query_invalid {s : State} {c : Nat} (h : c ≠ s.turn ∨ s.yieldReq = true)
    (rest : List ScriptLine) : s.midSlice (some (.query c)) rest = .refused .scriptInvalid := by
  rw [State.midSlice, if_neg]
  rintro ⟨hc, -, hyield⟩
  exact h.elim (· hc) (by simp [hyield])

/-- After a yield the script must end the slice (R195, R311). -/
theorem State.midSlice_of_yield {s : State} (h : s.yieldReq = true) (w : ScriptLine) (rest : List ScriptLine) :
    s.midSlice w rest = .refused .scriptInvalid := by
  match w with
  | some (.read c a) => exact State.present_invalid (.inr h) ..
  | some (.write c a d) => exact State.present_invalid (.inr h) ..
  | some (.query c) => exact State.midSlice_query_invalid (.inr h) rest
  | some .slice => rfl
  | some .frame => rfl
  | none => rfl

theorem State.midSlice_invalid {s : State} {w : ScriptLine}
    (h : s.yieldReq = true ∨ w = none ∨ w = some .frame ∨
      ∃ c a d, c ≠ s.turn ∧ w ∈ [some (.read c a), some (.write c a d), some (.query c)])
    (rest : List ScriptLine) : s.midSlice w rest = .refused .scriptInvalid := by
  obtain hyield | rfl | rfl | ⟨c, a, d, hc, hw⟩ := h
  · exact State.midSlice_of_yield hyield w rest
  · rfl
  · rfl
  · simp only [List.mem_cons, List.not_mem_nil, or_false] at hw
    obtain rfl | rfl | rfl := hw
    · exact State.present_invalid (.inl hc) ..
    · exact State.present_invalid (.inl hc) ..
    · exact State.midSlice_query_invalid (.inl hc) rest

theorem exec_schedSlice_not_running {s : State} (h : s.phase ≠ .running) :
    exec .schedSlice s = .refused (phaseRefusal s.phase) := by
  simp only [exec, execSchedSlice, if_neg h]

/-- The end of a slice moves the turn and the round (R311). -/
theorem State.endSlice_turn {s : State} (h : s.turn < s.cfg.cpus.length) :
    s.endSlice.turn = (if s.turn + 1 = s.cfg.cpus.length then 0 else s.turn + 1) ∧
      s.endSlice.round = (if s.turn + 1 = s.cfg.cpus.length then s.round + 1 else s.round) := by
  obtain ⟨more, hturn, hround⟩ | ⟨last, hturn, hround⟩ := s.endSlice_effect.adv
  · rw [if_neg (by omega), if_neg (by omega)]; exact ⟨hturn, hround⟩
  · rw [if_pos (by omega), if_pos (by omega)]; exact ⟨hturn, hround⟩

theorem State.unchanged_endSlice {s : State} : Unchanged s s.endSlice [.turn, .round, .yieldReq, .slicePos] := by
  intro p hp
  have same := Part.same_refl s p
  unfold State.endSlice
  split <;> cases p with
  | turn => exact absurd (by decide) hp
  | round => exact absurd (by decide) hp
  | yieldReq => exact absurd (by decide) hp
  | slicePos => exact absurd (by decide) hp
  | _ => exact same

theorem State.unchanged_withInput {s : State} {rest : List ScriptLine} :
    Unchanged s { s with input := rest } [.input] := by
  intro p hp
  have same := Part.same_refl s p
  cases p with
  | input => exact absurd (by decide) hp
  | _ => exact same

/-- Settles O50: the equation of SCHED.SLICE at each position of the slice. -/
theorem slice : Obligations.Slice := by
  refine fun s => ⟨fun rest hphase hround hturn hpos hend => ?done,
    fun cpu rest hphase hround hcpu hpos hinput => ?opening,
    fun rest cpu dir a d i hphase hround hpos hyield hcpu ha hinput hi => ?transaction,
    fun rest hphase hround hpos hyield hinput => ?early,
    fun w rest hphase hround hpos hinput hw hinvalid => ?invalid,
    fun hphase hround => ?lastSlice, fun hphase => ?setup, fun hphase => ?error⟩
  case done =>
    have opened : s.InSlice := ⟨hphase, hround, hpos⟩
    obtain ⟨turn, round⟩ := State.endSlice_turn (s := { s with input := rest }) hturn
    have effect := State.endSlice_effect { s with input := rest }
    exact ⟨_, opened.exec_end hend, turn, round, effect.yield, State.endSlice_input _, effect.pos,
      (State.unchanged_withInput.trans State.unchanged_endSlice).mono (by decide)⟩
  case opening =>
    have due := State.queryDue_iff hcpu
    have opened := s.opened_eq (rest := rest) (by rw [due]; exact hinput)
    rw [exec_schedSlice_of_start hphase hround hpos]
    by_cases hdue : s.round % cpu.queryPeriod = 0
    · rw [if_pos hdue, execAll_pair_eq, ← opened, State.openSlice_eq_exec (due.2 hdue), Outcome.next_andThen]
    · rw [if_neg hdue, execAll_singleton, ← opened, State.openSlice, if_neg (mt due.1 hdue)]
  case transaction =>
    have opened : s.InSlice := ⟨hphase, hround, hpos⟩
    have hline : s.input = txnLine s.turn dir a d :: rest := by cases dir <;> exact hinput
    have hw : txnLine s.turn dir a d ≠ some .slice := by cases dir <;> exact nofun
    rw [opened.exec_cons hline hw, State.midSlice_eq_exec hyield hcpu ha hi, execAll_pair_eq]
  case early =>
    have opened : s.InSlice := ⟨hphase, hround, by rw [hpos]; exact nofun⟩
    rw [opened.exec_cons hinput nofun, State.midSlice_query hpos hyield, execAll_pair_eq]
  case invalid =>
    have opened : s.InSlice := ⟨hphase, hround, hpos⟩
    rw [opened.exec_cons hinput hw, State.midSlice_invalid hinvalid, Outcome.refused_andThen]
  case lastSlice => simp only [exec, execSchedSlice, if_pos hphase, if_neg (Nat.not_lt.2 hround)]
  case setup => rw [exec_schedSlice_not_running (by rw [hphase]; exact nofun), hphase, phaseRefusal]
  case error => rw [exec_schedSlice_not_running (by rw [hphase]; exact nofun), hphase, phaseRefusal]

/-! ### No fault, no stuck state (R320) -/

/-- The answers of a running machine to its script: a next state, or the script is not one of the block's. -/
def Outcome.Answers (o : Host.Outcome State Fault Refusal) : Prop :=
  (∃ t, o = .next t) ∨ o = .refused .scriptInvalid ∨ o = .refused .outsideSpace

/-- A transaction's line completes, names another CPU, stands after a yield, or leaves the CPU's space (R62, R311). -/
theorem State.present_answers {s : State} (h : s.Inv) (hphase : s.phase = .running) (c : Nat) (dir : Dir) (a : Nat)
    (d : Byte) (rest : List ScriptLine) : Outcome.Answers (s.present c dir a d rest) := by
  have checked := h.checked hphase
  by_cases hc : c ≠ s.turn ∨ s.yieldReq = true
  · exact .inr (.inl (State.present_invalid hc ..))
  cases hcpu : s.cfg.cpus[c]? with
  | none => exact .inr (.inl (by simp only [State.present, hcpu]))
  | some cpu =>
    by_cases ha : 2 ^ cpu.addrBits ≤ a
    · exact .inr (.inr (by simp only [State.present, hcpu, if_neg hc, if_pos ha]))
    · obtain ⟨i, hi⟩ := txnInstr_isSome checked c dir a d
      obtain ⟨t, ht⟩ :=
        exec_txnInstr_completes (s := { s with slicePos := .afterTxn, input := rest }) checked h.bank hcpu hi
      refine .inl ⟨t, ?_⟩
      simp only [State.present, hcpu, if_neg hc, if_neg ha, hi]
      exact (performTxn_eq_exec i _ (txnInstr_isTransaction hi)).trans ht

/-- The current CPU of a checked machine exists (R35). -/
theorem State.Inv.turn_lt {s : State} (h : s.Inv) (hphase : s.phase = .running) : s.turn < s.cfg.cpus.length := by
  have cpus : 1 ≤ s.cfg.cpus.length := paramOk_of_checked (h.checked hphase) .nCpu
  have := h.turn
  omega

theorem State.midSlice_answers {s : State} (h : s.Inv) (hphase : s.phase = .running) (w : ScriptLine)
    (rest : List ScriptLine) : Outcome.Answers (s.midSlice w rest) := by
  match w with
  | some (.read c a) => exact State.present_answers h hphase ..
  | some (.write c a d) => exact State.present_answers h hphase ..
  | some (.query c) =>
    by_cases hc : c = s.turn ∧ s.slicePos = .afterTxn ∧ s.yieldReq = false
    · obtain ⟨rfl, hpos, hyield⟩ := hc
      rw [State.midSlice_query hpos hyield]
      exact .inl (Outcome.whenObject_completes (decide_eq_true (h.turn_lt hphase)) _)
    · exact .inr (.inl (by rw [State.midSlice, if_neg hc]))
  | some .slice => exact .inr (.inl rfl)
  | some .frame => exact .inr (.inl rfl)
  | none => exact .inr (.inl rfl)

theorem sliceRounds_of_lastSlice {s : State} (hround : s.cfg.slices ≤ s.round) (fuel : Nat) :
    sliceRounds fuel s = .next s := by
  cases fuel with
  | zero => rfl
  | succ fuel => rw [sliceRounds, if_neg (Nat.not_lt.2 hround)]

/-- After the frame's last slice only the FRAME line is left, or the script's end (R310; log entry 6). -/
theorem exec_schedFrame_of_lastSlice {s : State} (hphase : s.phase = .running) (hround : s.cfg.slices ≤ s.round)
    {rest : List ScriptLine} (hend : (s.input = [] ∧ rest = []) ∨ s.input = some .frame :: rest) :
    exec .schedFrame s = .next (s.endFrame rest) := by
  have dropped : dropFrame s.input = some rest := by
    obtain ⟨hinput, rfl⟩ | hinput := hend
    · rw [hinput, dropFrame]
    · rw [hinput, dropFrame, if_pos rfl]
  simp only [exec, execSchedFrame, if_pos hphase, sliceRounds_of_lastSlice hround, dropped]

/-- See `exec_schedFrame_of_lastSlice`. -/
theorem exec_schedFrame_invalid {s : State} (hphase : s.phase = .running) (hround : s.cfg.slices ≤ s.round)
    {w : ScriptLine} {rest : List ScriptLine} (hinput : s.input = w :: rest) (hw : w ≠ some .frame) :
    exec .schedFrame s = .refused .scriptInvalid := by
  simp only [exec, execSchedFrame, if_pos hphase, sliceRounds_of_lastSlice hround, hinput, dropFrame, if_neg hw]

theorem exec_schedFrame_answers {s : State} (hphase : s.phase = .running) (hround : s.cfg.slices ≤ s.round) :
    Outcome.Answers (exec .schedFrame s) := by
  cases hinput : s.input with
  | nil => exact .inl ⟨_, exec_schedFrame_of_lastSlice hphase hround (.inl ⟨hinput, rfl⟩)⟩
  | cons w rest =>
    by_cases hw : w = some .frame
    · exact .inl ⟨_, exec_schedFrame_of_lastSlice hphase hround (.inr (hw ▸ hinput))⟩
    · exact .inr (.inl (exec_schedFrame_invalid hphase hround hinput hw))

/-- At each position of the scheduler a running machine answers its script. -/
theorem step_answers {s : State} (h : s.Inv) (hslot : s.slot = none) (hphase : s.phase = .running) :
    Outcome.Answers (step s) := by
  by_cases hround : s.round < s.cfg.slices
  case neg =>
    rw [step_of_lastSlice hslot hphase (Nat.not_lt.1 hround)]
    exact exec_schedFrame_answers hphase (Nat.not_lt.1 hround)
  by_cases hpos : s.slicePos = .start
  case pos => exact .inl ⟨_, (step_of_start hslot hphase hround hpos).trans (stepOpen_eq s)⟩
  have opened : s.InSlice := ⟨hphase, hround, hpos⟩
  cases hinput : s.input with
  | nil =>
    rw [step_of_sliceEnd hslot hphase hround hpos (.inl hinput)]
    exact .inl ⟨_, opened.exec_end (.inl ⟨hinput, rfl⟩)⟩
  | cons w rest =>
    by_cases hw : w = some .slice
    · subst hw
      rw [step_of_sliceEnd hslot hphase hround hpos (.inr ⟨rest, hinput⟩)]
      exact .inl ⟨_, opened.exec_end (.inr hinput)⟩
    · rw [step_eq_midSlice hslot hphase hround hpos hinput hw]
      exact State.midSlice_answers h hphase w rest

/-- With an empty script the environment ends the slice, or the frame (log entry 6): the machine goes on. -/
theorem step_of_noScript {s : State} (hslot : s.slot = none) (hphase : s.phase = .running) (hinput : s.input = []) :
    ∃ t, step s = .next t ∧ t.phase = .running := by
  by_cases hround : s.round < s.cfg.slices
  case neg =>
    obtain ⟨fb, d, out, hend⟩ := s.endFrame_shape []
    rw [step_of_lastSlice hslot hphase (Nat.not_lt.1 hround)]
    exact ⟨_, exec_schedFrame_of_lastSlice hphase (Nat.not_lt.1 hround) (.inl ⟨hinput, rfl⟩), by rw [hend]; exact hphase⟩
  by_cases hpos : s.slicePos = .start
  case pos =>
    exact ⟨_, (step_of_start hslot hphase hround hpos).trans (stepOpen_eq s), s.openSlice_sameTurn.phase.trans hphase⟩
  have opened : s.InSlice := ⟨hphase, hround, hpos⟩
  rw [step_of_sliceEnd hslot hphase hround hpos (.inl hinput)]
  exact ⟨_, opened.exec_end (.inl ⟨hinput, rfl⟩), (State.endSlice_effect _).phase.trans hphase⟩

theorem Outcome.Answers.not_fault {o : Host.Outcome State Fault Refusal} (h : Outcome.Answers o) : isFault o = false := by
  obtain ⟨t, rfl⟩ | rfl | rfl := h <;> rfl

theorem Outcome.Answers.isSpecs {r : Refusal} (h : Outcome.Answers (.refused r)) :
    r.isSpecs = true ∧ r ≠ .configError := by
  obtain ⟨t, ht⟩ | hr | hr := h
  · cases ht
  · cases hr; decide
  · cases hr; decide

/-- Settles O57: CONFIG.CHECK always answers a next state, CONFIG_ERROR refuses, and a running machine answers its
script at each position of the scheduler. -/
theorem noFaultNoStuckState : Obligations.NoFaultNoStuckState := by
  intro s h hslot
  cases hphase : s.phase with
  | setup =>
    have checks : step s = .next s.checked := (step_of_setup hslot hphase).trans (exec_configCheck_of_setup hphase)
    rw [checks]
    exact ⟨rfl, nofun, nofun, nofun⟩
  | configError =>
    rw [step_of_configError hslot hphase]
    refine ⟨rfl, fun r hr => ?_, fun _ => rfl, nofun⟩
    cases hr
    exact ⟨rfl, by simp⟩
  | running =>
    have answers := step_answers h hslot hphase
    refine ⟨answers.not_fault, fun r hr => ?_, nofun, fun _ => step_of_noScript hslot hphase⟩
    obtain ⟨specs, hne⟩ := Outcome.Answers.isSpecs (hr ▸ answers)
    exact ⟨specs, by simp [hne]⟩

end Sys2Proof.Machine
end

section
/-! PROOFS. A frame, slice by slice (R310): SCHED.FRAME is a slice and then the rest of the frame, and it completes with
its slices scripted and with an empty script. -/

namespace Sys2Proof.Machine

/-! ### The equation of a frame -/

/-- After the frame's last slice: the FRAME line or the script's end, and the end of the frame (R310). -/
def State.closeFrame (s : State) : Host.Outcome State Fault Refusal :=
  match dropFrame s.input with
  | some rest => .next (s.endFrame rest)
  | none => .refused .scriptInvalid

theorem exec_schedFrame_eq {s : State} (hphase : s.phase = .running) :
    exec .schedFrame s = Outcome.andThen (sliceRounds s.frameFuel s) State.closeFrame := by
  simp only [exec, execSchedFrame, if_pos hphase]
  cases sliceRounds s.frameFuel s <;> rfl

theorem sliceRounds_succ {s : State} (hround : s.round < s.cfg.slices) (fuel : Nat) :
    sliceRounds (fuel + 1) s = Outcome.andThen s.runSlice (sliceRounds fuel) := by
  rw [sliceRounds, if_pos hround]
  cases s.runSlice <;> rfl

/-- While slices remain, a frame is a slice and then the rest of the frame: a slice uses one unit of the fuel, and what
is left is enough for the slices that are left. -/
theorem exec_schedFrame_of_slicesLeft {s : State} (hphase : s.phase = .running) (hround : s.round < s.cfg.slices) :
    exec .schedFrame s = Outcome.andThen (exec .schedSlice s) (exec .schedFrame) := by
  have enough := s.slicesLeft_le_frameFuel
  have left := State.one_le_slicesLeft hround
  obtain ⟨fuel, hfuel⟩ : ∃ fuel, s.frameFuel = fuel + 1 := ⟨s.frameFuel - 1, by omega⟩
  rw [exec_schedFrame_eq hphase, hfuel, sliceRounds_succ hround, Outcome.andThen_assoc,
    exec_schedSlice_eq hphase hround]
  refine Outcome.andThen_congr fun t ht => ?_
  have effect := State.runSlice_effect ht
  have used := effect.slicesLeft hround
  rw [exec_schedFrame_eq (effect.phase.trans hphase), sliceRounds_fuel fuel t.frameFuel t (by omega)
    t.slicesLeft_le_frameFuel]

theorem exec_schedFrame_not_running {s : State} (h : s.phase ≠ .running) :
    exec .schedFrame s = .refused (phaseRefusal s.phase) := by
  simp only [exec, execSchedFrame, if_neg h]

/-- The end of a frame is a composition, and the frame count, the round and the script move on (R310). -/
theorem State.unchanged_endFrame {s : State} (rest : List ScriptLine) :
    Unchanged s.composed (s.endFrame rest) [.frame, .round, .input] := by
  intro p hp
  have same := Part.same_refl s.composed p
  unfold State.endFrame
  cases p with
  | frame => exact absurd (by decide) hp
  | round => exact absurd (by decide) hp
  | input => exact absurd (by decide) hp
  | _ => exact same

/-! ### The opening of a slice, for what follows -/

theorem State.unchanged_opened {s : State} : Unchanged s s.opened [.slicePos, .input] := by
  intro p hp
  have same := Part.same_refl s p
  unfold State.opened
  cases p with
  | slicePos => exact absurd (by decide) hp
  | input => exact absurd (by decide) hp
  | _ => exact same

theorem State.unchanged_openSlice {s : State} : Unchanged s s.openSlice [.input, .slicePos, .asserted, .trace] := by
  unfold State.openSlice
  split
  · exact (State.unchanged_opened.trans State.unchanged_query).mono (by decide)
  · exact State.unchanged_opened.mono (by decide)

/-- Where the script shows no `Q` line, the opening leaves it as it is. -/
theorem State.openSlice_input {s : State} (h : ∀ r, s.input ≠ some (.query s.turn) :: r) :
    s.openSlice.input = s.input := by
  have opened : s.opened.input = s.input := by rw [s.opened_eq (.inr ⟨rfl, fun _ => h⟩)]
  unfold State.openSlice
  split
  · exact (Kept.query s.opened s.turn false).2.input.trans opened
  · exact opened

/-! ### The remaining slices scripted -/

theorem ne_query_of_presents {s : State} {w : ScriptLine} (h : s.presents w = true) (c : Nat) :
    w ≠ some (.query c) := by
  rintro rfl
  simp [State.presents] at h

/-- A slice of transactions completes wherever it stands: one that has not opened makes its query first. -/
theorem exec_schedSlice_completes {s : State} {ws rest : List ScriptLine} (h : s.Inv) (hphase : s.phase = .running)
    (hround : s.round < s.cfg.slices) (hyield : s.yieldReq = false)
    (noSync : ∀ hc ∈ s.cfg.handshakes, hc.syncDelivery = false) (hws : ∀ w ∈ ws, s.presents w = true)
    (hinput : s.input = ws ++ some .slice :: rest) :
    ∃ t, exec .schedSlice s = .next t ∧ t.input = rest := by
  by_cases hpos : s.slicePos = .start
  case neg =>
    obtain ⟨t, run, hrest, -⟩ := sliceCompletes s ws rest h hphase hround hpos hyield noSync hws hinput
    exact ⟨t, run, hrest⟩
  have noQuery : ∀ r, s.input ≠ some (.query s.turn) :: r := by
    intro r hr
    cases ws with
    | nil => simp [hinput] at hr
    | cons w ws =>
      rw [hinput] at hr
      exact ne_query_of_presents (hws w List.mem_cons_self) s.turn (List.cons.inj hr).1
  have same := s.openSlice_sameTurn
  have opened := State.openSlice_inSlice hphase hround
  have yield : s.openSlice.yieldReq = s.yieldReq := State.unchanged_openSlice .yieldReq (by decide)
  obtain ⟨t, run, hrest, -⟩ := sliceCompletes s.openSlice ws rest (same.inv h) opened.phase opened.round opened.pos
    (yield.trans hyield) (by rw [same.cfg]; exact noSync)
    (fun w hw => (State.presents_congr same.cfg same.turn w).trans (hws w hw))
    ((State.openSlice_input noQuery).trans hinput)
  exact ⟨t, (exec_schedSlice_of_start hphase hround hpos).trans run, hrest⟩

/-- The rest of a frame is scripted: the slices that remain, each of transactions of its CPU, then the FRAME line. -/
structure State.Scripted (s : State) (slices : List (List ScriptLine)) (rest : List ScriptLine) : Prop where
  inv : s.Inv
  phase : s.phase = .running
  yield : s.yieldReq = false
  noSync : ∀ hc ∈ s.cfg.handshakes, hc.syncDelivery = false
  count : slices.length + s.turn = (s.cfg.slices - s.round) * s.cfg.cpus.length
  presents : ∀ j ws, slices[j]? = some ws →
    ∀ w ∈ ws, State.presents { s with turn := (s.turn + j) % s.cfg.cpus.length } w = true
  input : s.input = slices.flatMap (fun ws => ws ++ [some .slice]) ++ some .frame :: rest

/-- With no slice left the frame stands at its end. -/
theorem State.Scripted.done {s : State} {rest : List ScriptLine} (h : s.Scripted [] rest) :
    s.cfg.slices ≤ s.round ∧ s.turn = 0 := by
  have turn := h.inv.turn_lt h.phase
  have count : s.turn = (s.cfg.slices - s.round) * s.cfg.cpus.length := by simpa using h.count
  have none : s.cfg.slices - s.round = 0 := by
    by_contra hn
    have := Nat.le_mul_of_pos_left s.cfg.cpus.length (Nat.pos_of_ne_zero hn)
    omega
  rw [none, Nat.zero_mul] at count
  exact ⟨by omega, count⟩

/-- One slice leaves the rest of the frame scripted for the CPUs whose turn it is then. -/
theorem State.Scripted.next {s : State} {ws rest : List ScriptLine} {slices : List (List ScriptLine)}
    (h : s.Scripted (ws :: slices) rest) :
    s.round < s.cfg.slices ∧ ∃ t, exec .schedSlice s = .next t ∧ t.Scripted slices rest ∧ t.frame = s.frame := by
  have turn := h.inv.turn_lt h.phase
  have count := h.count
  have hround : s.round < s.cfg.slices := by
    by_contra hn
    rw [Nat.sub_eq_zero_of_le (Nat.le_of_not_lt hn), List.length_cons] at count
    omega
  have current : ∀ w ∈ ws, s.presents w = true := fun w hw =>
    (State.presents_congr (t := s) (s := { s with turn := (s.turn + 0) % s.cfg.cpus.length }) rfl
      (Nat.mod_eq_of_lt turn).symm w).trans (h.presents 0 ws rfl w hw)
  obtain ⟨t, run, hrest⟩ := exec_schedSlice_completes h.inv h.phase hround h.yield h.noSync current
    (rest := slices.flatMap (fun ws => ws ++ [some .slice]) ++ some .frame :: rest)
    (h.input.trans (by simp))
  obtain ⟨-, effect⟩ := execSchedSlice_eq_next run
  have oneRound : (s.cfg.slices - s.round) * s.cfg.cpus.length =
      (s.cfg.slices - (s.round + 1)) * s.cfg.cpus.length + s.cfg.cpus.length := by
    rw [← Nat.succ_mul]; congr 1; omega
  have turns : ∀ j, (t.turn + j) % s.cfg.cpus.length = (s.turn + (j + 1)) % s.cfg.cpus.length := by
    intro j
    obtain ⟨-, hturn, -⟩ | ⟨last, hturn, -⟩ := effect.adv
    · rw [hturn]; congr 1; omega
    · rw [hturn, show s.turn + (j + 1) = 0 + j + s.cfg.cpus.length by omega, Nat.add_mod_right]
  refine ⟨hround, t, run, ⟨exec_inv h.inv run, effect.phase.trans h.phase, effect.yield, effect.cfg ▸ h.noSync, ?count,
    fun j ws' hj w hw => ?presents, hrest⟩, effect.frame⟩
  case count =>
    rw [List.length_cons] at count
    rw [effect.cfg]
    obtain ⟨-, hturn, hsame⟩ | ⟨last, hturn, hnext⟩ := effect.adv
    · rw [hturn, hsame]; omega
    · rw [hturn, hnext]; omega
  case presents =>
    exact (State.presents_congr (s := { s with turn := (s.turn + (j + 1)) % s.cfg.cpus.length })
      (t := { t with turn := (t.turn + j) % t.cfg.cpus.length }) effect.cfg (effect.cfg ▸ turns j) w).trans
        (h.presents (j + 1) ws' hj w hw)

theorem State.Scripted.exec_schedFrame {slices : List (List ScriptLine)} {rest : List ScriptLine} {s : State}
    (h : s.Scripted slices rest) : ∃ t, exec .schedFrame s = .next t ∧ t.frame = s.frame + 1 ∧ t.round = 0 ∧
      t.turn = 0 ∧ t.yieldReq = false ∧ t.input = rest ∧ t.phase = .running ∧ t.out ≠ none := by
  induction slices generalizing s with
  | nil =>
    obtain ⟨last, turn⟩ := h.done
    obtain ⟨fb, d, out, hend⟩ := s.endFrame_shape rest
    refine ⟨_, exec_schedFrame_of_lastSlice h.phase last (.inr h.input), ?_⟩
    rw [hend]
    exact ⟨rfl, rfl, turn, h.yield, rfl, h.phase, nofun⟩
  | cons ws slices ih =>
    obtain ⟨hround, t, run, scripted, hframe⟩ := h.next
    rw [exec_schedFrame_of_slicesLeft h.phase hround, run, Outcome.next_andThen, ← hframe]
    exact ih scripted

/-! ### An empty script -/

/-- The environment ends every slice at once (log entry 6). Between two frames the turn is the first CPU's, and no yield
is asked for. -/
structure State.Unscripted (s : State) : Prop where
  inv : s.Inv
  phase : s.phase = .running
  input : s.input = []
  rest : s.round < s.cfg.slices ∨ (s.turn = 0 ∧ s.yieldReq = false)

/-- What the slices of an empty script may change: the position, and what their opening queries change. -/
def emptySliceParts : List Part := [.slicePos, .asserted, .trace, .turn, .round, .yieldReq]

/-- A slice with nothing to perform is its opening and its end. -/
theorem exec_schedSlice_of_noScript {s : State} (hphase : s.phase = .running) (hround : s.round < s.cfg.slices)
    (hinput : s.input = []) : ∃ t, exec .schedSlice s = .next t ∧ t.input = [] ∧ Unchanged s t emptySliceParts := by
  have ends {u : State} (hu : u.InSlice) (noScript : u.input = []) : exec .schedSlice u = .next u.endSlice := by
    rw [hu.exec_end (.inl ⟨noScript, rfl⟩), ← noScript]
  by_cases hpos : s.slicePos = .start
  case neg =>
    exact ⟨_, ends ⟨hphase, hround, hpos⟩ hinput, s.endSlice_input.trans hinput, State.unchanged_endSlice.mono (by decide)⟩
  have openInput : s.openSlice.input = s.input := State.openSlice_input (by simp [hinput])
  have opening : Unchanged s s.openSlice [.slicePos, .asserted, .trace] := State.unchanged_openSlice.drop openInput
  refine ⟨s.openSlice.endSlice, ?_, s.openSlice.endSlice_input.trans (openInput.trans hinput),
    (opening.trans State.unchanged_endSlice).mono (by decide)⟩
  rw [exec_schedSlice_of_start hphase hround hpos]
  exact ends (State.openSlice_inSlice hphase hround) (openInput.trans hinput)

theorem State.Unscripted.next {s : State} (h : s.Unscripted) (hround : s.round < s.cfg.slices) :
    ∃ t, exec .schedSlice s = .next t ∧ t.Unscripted ∧ Unchanged s t emptySliceParts := by
  obtain ⟨t, run, hinput, frame⟩ := exec_schedSlice_of_noScript h.phase hround h.input
  obtain ⟨-, effect⟩ := execSchedSlice_eq_next run
  refine ⟨t, run, ⟨exec_inv h.inv run, effect.phase.trans h.phase, hinput, ?_⟩, frame⟩
  obtain ⟨-, -, hsame⟩ | ⟨-, hturn, -⟩ := effect.adv
  · exact .inl (by rw [hsame, effect.cfg]; exact hround)
  · exact .inr ⟨hturn, effect.yield⟩

/-- What a frame with an empty script may change: its slices' parts, and what the composition and the count change. -/
def emptyFrameParts : List Part :=
  [.asserted, .trace, .frame, .round, .turn, .yieldReq, .slicePos, .fb, .out, .dirty]

/-- The end of the frame, the script empty. -/
theorem State.Unscripted.endFrame {s : State} (h : s.Unscripted) (hround : s.cfg.slices ≤ s.round) :
    exec .schedFrame s = .next (s.endFrame []) ∧ (s.endFrame []).round = 0 ∧ (s.endFrame []).turn = 0 ∧
      (s.endFrame []).yieldReq = false ∧ (s.endFrame []).out ≠ none ∧ Unchanged s (s.endFrame []) emptyFrameParts := by
  obtain ⟨turn, yield⟩ := h.rest.resolve_left (Nat.not_lt.2 hround)
  have frame : Unchanged s (s.endFrame []) (.input :: emptyFrameParts) :=
    (State.unchanged_composed.trans (State.unchanged_endFrame [])).mono (by decide)
  have input : (s.endFrame []).input = s.input := h.input.symm
  refine ⟨exec_schedFrame_of_lastSlice h.phase hround (.inl ⟨h.input, rfl⟩), rfl, ?_, ?_, ?_, frame.drop input⟩
  all_goals obtain ⟨fb, d, out, hend⟩ := s.endFrame_shape []; rw [hend]
  · exact turn
  · exact yield
  · exact nofun

/-- A frame with an empty script completes: by induction on the slices that are left. -/
theorem State.Unscripted.exec_schedFrame {s : State} (h : s.Unscripted) :
    ∃ t, exec .schedFrame s = .next t ∧ t.frame = s.frame + 1 ∧ t.round = 0 ∧ t.turn = 0 ∧ t.yieldReq = false ∧
      t.out ≠ none ∧ Unchanged s t emptyFrameParts := by
  induction hn : s.slicesLeft using Nat.strong_induction_on generalizing s with
  | _ n ih =>
    by_cases hround : s.round < s.cfg.slices
    case neg =>
      obtain ⟨run, parts⟩ := h.endFrame (Nat.not_lt.1 hround)
      exact ⟨_, run, rfl, parts⟩
    obtain ⟨t, run, unscripted, frame⟩ := h.next hround
    obtain ⟨-, effect⟩ := execSchedSlice_eq_next run
    have used := effect.slicesLeft hround
    obtain ⟨u, rest, hframe, hround', hturn, hyield, hout, frame'⟩ := ih _ (by omega) unscripted rfl
    refine ⟨u, ?_, hframe.trans (by rw [effect.frame]), hround', hturn, hyield, hout, (frame.trans frame').mono (by decide)⟩
    rw [exec_schedFrame_of_slicesLeft h.phase hround, run, Outcome.next_andThen, rest]

/-- Settles O52. -/
theorem frame : Obligations.Frame := by
  refine fun s => ⟨fun hphase hround => ?slices, fun rest hphase hround hend => ?done,
    fun w rest hphase hround hinput hw => exec_schedFrame_invalid hphase hround hinput hw,
    fun slices rest h hphase hround hyield noSync count presents hinput => ?scripted,
    fun h hphase hround hinput => State.Unscripted.exec_schedFrame ⟨h, hphase, hinput, .inl hround⟩,
    fun hphase => ?setup, fun hphase => ?error⟩
  case slices => rw [exec_schedFrame_of_slicesLeft hphase hround, execAll_pair_eq]
  case done =>
    exact ⟨s.endFrame rest, s.composed, rfl, exec_schedFrame_of_lastSlice hphase hround hend, rfl, rfl, rfl,
      State.unchanged_endFrame rest⟩
  case scripted =>
    exact State.Scripted.exec_schedFrame ⟨h, hphase, hyield, noSync, count, presents, hinput⟩
  case setup => rw [exec_schedFrame_not_running (by rw [hphase]; exact nofun), hphase, phaseRefusal]
  case error => rw [exec_schedFrame_not_running (by rw [hphase]; exact nofun), hphase, phaseRefusal]

end Sys2Proof.Machine
end

section
/-! PROOFS. A run (R318): RESET and CONFIG.CHECK in front of the frames, the induction over the slices of a frame, the
frames that a run shows, and the block's own steps along it. -/

namespace Sys2Proof.Machine

/-! ### Induction over a slice and over a frame -/

/-- What holds of a slice's end, of an event in front of what follows it, and of an opening in front of it, holds of
every slice that completes (R311). -/
theorem exec_schedSlice_induct {P : State → State → Prop}
    (ending : ∀ s rest, s.InSlice → (s.input = [] ∧ rest = [] ∨ s.input = some .slice :: rest) →
      P s { s with input := rest }.endSlice)
    (event : ∀ s w rest u t, s.InSlice → s.input = w :: rest → w ≠ some .slice → s.midSlice w rest = .next u →
      P u t → P s t)
    (opening : ∀ s t, s.phase = .running → s.round < s.cfg.slices → s.slicePos = .start → P s.openSlice t → P s t)
    {s t : State} (hphase : s.phase = .running) (h : exec .schedSlice s = .next t) : P s t := by
  have hround := (execSchedSlice_eq_next h).1
  have opened {s : State} (hs : s.InSlice) (h : exec .schedSlice s = .next t) : P s t := by
    induction hinput : s.input generalizing s with
    | nil =>
      cases (hs.exec_end (.inl ⟨hinput, rfl⟩)).symm.trans h
      exact ending s [] hs (.inl ⟨hinput, rfl⟩)
    | cons w rest ih =>
      by_cases hw : w = some .slice
      · subst hw
        cases (hs.exec_end (.inr hinput)).symm.trans h
        exact ending s rest hs (.inr hinput)
      · rw [hs.exec_cons hinput hw] at h
        obtain ⟨u, hu, hrest⟩ := Outcome.andThen_eq_next.1 h
        exact event s w rest u t hs hinput hw hu (ih (hs.of_midSlice hu) hrest (State.midSlice_moves hu).1)
  by_cases hpos : s.slicePos = .start
  · rw [exec_schedSlice_of_start hphase hround hpos] at h
    exact opening s t hphase hround hpos (opened (State.openSlice_inSlice hphase hround) h)
  · exact opened ⟨hphase, hround, hpos⟩ h

/-- What holds of a frame's end, and of a slice in front of what follows it, holds of every frame that completes (R310):
by induction on the slices that are left. -/
theorem exec_schedFrame_induct {P : State → State → Prop}
    (ending : ∀ s rest, s.phase = .running → s.cfg.slices ≤ s.round → exec .schedFrame s = .next (s.endFrame rest) →
      P s (s.endFrame rest))
    (slice : ∀ s u t, s.phase = .running → exec .schedSlice s = .next u → P u t → P s t)
    {s t : State} (hphase : s.phase = .running) (h : exec .schedFrame s = .next t) : P s t := by
  induction hn : s.slicesLeft using Nat.strong_induction_on generalizing s with
  | _ n ih =>
    by_cases hround : s.round < s.cfg.slices
    · have whole := h
      rw [exec_schedFrame_of_slicesLeft hphase hround] at h
      obtain ⟨u, hu, hrest⟩ := Outcome.andThen_eq_next.1 h
      obtain ⟨-, effect⟩ := execSchedSlice_eq_next hu
      have used := effect.slicesLeft hround
      exact slice s u t hphase hu (ih _ (by omega) (effect.phase.trans hphase) hrest rfl)
    · have last := Nat.not_lt.1 hround
      have closes := h
      rw [exec_schedFrame_eq hphase, sliceRounds_of_lastSlice last, Outcome.next_andThen, State.closeFrame] at h
      split at h
      · cases h
        exact ending s _ hphase last closes
      · cases h

/-- A frame leaves the slot, and the machine running. -/
theorem exec_schedFrame_effect {s t : State} (h : exec .schedFrame s = .next t) :
    t.phase = s.phase ∧ t.slot = s.slot := by
  obtain ⟨u, rest, effect, rfl⟩ := execSchedFrame_eq_next h
  obtain ⟨fb, d, out, hend⟩ := u.endFrame_shape rest
  rw [hend]
  exact ⟨effect.phase, effect.slot⟩

/-! ### The block's own steps -/

/-- Some number of the block's steps lead from s to t. -/
def State.Reaches (s t : State) : Prop := ∃ n, steps n s = .next t

theorem steps_succ (n : Nat) (s : State) : steps (n + 1) s = Outcome.andThen (step s) (steps n) := by
  rw [steps]
  cases step s <;> rfl

theorem State.Reaches.refl (s : State) : s.Reaches s := ⟨0, rfl⟩

theorem State.Reaches.cons {s t u : State} (h : step s = .next t) : t.Reaches u → s.Reaches u := by
  rintro ⟨n, hn⟩
  exact ⟨n + 1, by rw [steps_succ, h, Outcome.next_andThen, hn]⟩

theorem State.Reaches.single {s t : State} (h : step s = .next t) : s.Reaches t := .cons h (.refl t)

theorem State.Reaches.trans {s t u : State} (h : s.Reaches t) (g : t.Reaches u) : s.Reaches u := by
  obtain ⟨n, hn⟩ := h
  induction n generalizing s with
  | zero => cases hn; exact g
  | succ n ih =>
    rw [steps_succ] at hn
    obtain ⟨v, hv, hrest⟩ := Outcome.andThen_eq_next.1 hn
    exact .cons hv (ih hrest)

/-- Each event of a slice is a step, and so are its opening and its end (R311). -/
theorem exec_schedSlice_reaches {s t : State} (hslot : s.slot = none) (hphase : s.phase = .running)
    (h : exec .schedSlice s = .next t) : s.Reaches t := by
  refine exec_schedSlice_induct (P := fun s t => s.slot = none → s.Reaches t) ?_ ?_ ?_ hphase h hslot
  · intro s rest opened hend hslot
    refine .single (Eq.trans ?_ (opened.exec_end hend))
    exact step_of_sliceEnd hslot opened.phase opened.round opened.pos (hend.imp And.left fun hs => ⟨rest, hs⟩)
  · intro s w rest u t opened hinput hw hu ih hslot
    have taken := step_eq_midSlice hslot opened.phase opened.round opened.pos hinput hw
    exact .cons (taken.trans hu) (ih ((State.midSlice_sameTurn hu).slot.trans hslot))
  · intro s t hphase hround hpos ih hslot
    exact .cons ((step_of_start hslot hphase hround hpos).trans (stepOpen_eq s))
      (ih (s.openSlice_sameTurn.slot.trans hslot))

/-- A frame goes where the steps of its slices and its last step go (R310). -/
theorem exec_schedFrame_reaches {s t : State} (hslot : s.slot = none) (hphase : s.phase = .running)
    (h : exec .schedFrame s = .next t) : s.Reaches t := by
  refine exec_schedFrame_induct (P := fun s t => s.slot = none → s.Reaches t) ?_ ?_ hphase h hslot
  · intro s rest hphase hround hend hslot
    exact .single ((step_of_lastSlice hslot hphase hround).trans hend)
  · intro s u t hphase hu ih hslot
    exact (exec_schedSlice_reaches hslot hphase hu).trans (ih ((execSchedSlice_eq_next hu).2.slot.trans hslot))

/-! ### The frames that a run shows -/

/-- The frames among the events, the newest first. -/
def State.shown (s : State) : List (List (List Colour)) := s.trace.filterMap Obs.frame?

/-- From s to t no frame was shown. -/
def Quiet (s t : State) : Prop := t.shown = s.shown

theorem Quiet.of_unchanged {s t : State} {ps : List Part} (h : Unchanged s t ps) (hps : Part.trace ∉ ps) : Quiet s t :=
  congrArg (List.filterMap Obs.frame?) (h .trace hps)

theorem Quiet.trans {s t u : State} (h : Quiet s t) (g : Quiet t u) : Quiet s u := Eq.trans g h

theorem Quiet.emit {s t : State} (h : Quiet s t) {o : Obs} (ho : o.frame? = none) : Quiet s (t.emit o) :=
  (List.filterMap_cons_none ho).trans h

theorem Quiet.refl (s : State) : Quiet s s := rfl

theorem State.quiet_query (s : State) (c : Nat) (early : Bool) : Quiet s (s.query c early) := by
  unfold Quiet State.shown
  rw [State.trace_query]
  exact List.filterMap_cons_none (by cases s.pickInterrupt c early <;> rfl)

theorem isTransaction_of_performTxn {i : Instr} {s t : State} (h : performTxn i s = .next t) :
    isTransaction i = true := by
  cases i <;> first | rfl | cases h

/-- A transaction reads a value or writes a sound device; it shows no frame (R252, R318). -/
theorem performTxn_quiet {i : Instr} {s t : State} (h : performTxn i s = .next t) : Quiet s t := by
  have tx := isTransaction_of_performTxn h
  by_cases traced : Part.trace ∈ txnParts i
  case neg => exact .of_unchanged (performTxn_unchanged h) traced
  cases i with
  | rdOpen =>
    simp only [performTxn, execRdOpen] at h
    split at h <;> cases h
    exact (Quiet.refl s).emit rfl
  | wrOpen => cases h; exact .refl s
  | rdRam => cases Outcome.eq_of_whenByte h; exact (Quiet.refl s).emit rfl
  | rdRom => cases Outcome.eq_of_whenByte h; exact (Quiet.refl s).emit rfl
  | rdPalette => cases Outcome.eq_of_whenByte h; exact (Quiet.refl s).emit rfl
  | rdBank =>
    simp only [performTxn, execRdBank] at h
    split at h
    · cases Outcome.eq_of_whenByte h; exact (Quiet.refl s).emit rfl
    · cases h
  | rdShared =>
    simp only [performTxn, execRdShared] at h
    split at h
    · cases Outcome.eq_of_whenByte h; exact (Quiet.refl s).emit rfl
    · cases h
  | rdHsCmd =>
    simp only [performTxn, execRdHsCmd] at h
    split at h <;> cases h
    exact (Quiet.of_unchanged (State.unchanged_setHs.trans State.unchanged_clearOpt) (by decide)).emit rfl
  | rdHsRes =>
    cases Outcome.eq_of_whenObject h
    exact (Quiet.of_unchanged State.unchanged_setHs (by decide)).emit rfl
  | rdHsStatus =>
    simp only [performTxn, execRdHsStatus] at h
    split at h <;> cases h
    exact (Quiet.refl s).emit rfl
  | rdMcuData =>
    simp only [performTxn, execRdMcuData] at h
    split at h <;> cases h
    exact (Quiet.of_unchanged (State.unchanged_setLink.trans State.unchanged_clearOpt) (by decide)).emit rfl
  | rdMcuStatus =>
    simp only [performTxn, execRdMcuStatus] at h
    split at h <;> cases h
    exact (Quiet.refl s).emit rfl
  | rdMcuPort u m p =>
    cases Outcome.eq_of_whenObject h
    cases p
    · exact (Quiet.refl s).emit rfl
    · exact (Quiet.of_unchanged State.unchanged_drawn (by decide)).emit rfl
  | wrSound => cases Outcome.eq_of_whenObject h; exact (Quiet.refl s).emit rfl
  | rdSound =>
    cases Outcome.eq_of_whenObject h
    exact (Quiet.of_unchanged State.unchanged_drawn (by decide)).emit rfl
  | rdSoundBusy =>
    simp only [performTxn, execRdSoundBusy] at h
    split at h <;> cases h
    exact (Quiet.of_unchanged State.unchanged_drawn (by decide)).emit rfl
  | rdInput => cases h; exact (Quiet.of_unchanged State.unchanged_drawn (by decide)).emit rfl
  | _ => simp_all [txnParts, isTransaction]

theorem State.midSlice_quiet {s t : State} {w : ScriptLine} {rest : List ScriptLine} (h : s.midSlice w rest = .next t) :
    Quiet s t := by
  obtain ⟨i, hi⟩ | ⟨c, rfl⟩ := State.midSlice_eq_next h
  · have performed := performTxn_quiet hi
    exact performed
  · have queried := State.quiet_query { s with slicePos := .ready, input := rest } c true
    exact queried

theorem State.quiet_openSlice (s : State) : Quiet s s.openSlice := by
  have opened : Quiet s s.opened := .of_unchanged State.unchanged_opened (by decide)
  unfold State.openSlice
  split
  · exact opened.trans (State.quiet_query ..)
  · exact opened

theorem exec_schedSlice_quiet {s t : State} (hphase : s.phase = .running) (h : exec .schedSlice s = .next t) :
    Quiet s t :=
  exec_schedSlice_induct (P := Quiet)
    (fun _ _ _ _ =>
      (Quiet.of_unchanged State.unchanged_withInput (by decide)).trans (.of_unchanged State.unchanged_endSlice (by decide)))
    (fun _ _ _ _ _ _ _ _ hu ih => (State.midSlice_quiet hu).trans ih)
    (fun s _ _ _ _ ih => s.quiet_openSlice.trans ih) hphase h

/-- A frame shows one `st.out`, the one that stands after it, and is counted (R252, R310). -/
theorem exec_schedFrame_shown {s t : State} (hphase : s.phase = .running) (h : exec .schedFrame s = .next t) :
    t.frame = s.frame + 1 ∧ ∃ out, t.out = some out ∧ t.shown = out :: s.shown := by
  refine exec_schedFrame_induct
    (P := fun s t => t.frame = s.frame + 1 ∧ ∃ out, t.out = some out ∧ t.shown = out :: s.shown) ?_ ?_ hphase h
  · intro s rest _ _ _
    obtain ⟨fb, d, out, hend⟩ := s.endFrame_shape rest
    rw [hend]
    exact ⟨rfl, out, rfl, rfl⟩
  · rintro s u t hphase hu ⟨hframe, out, hout, hshown⟩
    have quiet : u.shown = s.shown := exec_schedSlice_quiet hphase hu
    have same := (execSchedSlice_eq_next hu).2.frame
    exact ⟨hframe.trans (by rw [same]), out, hout, hshown.trans (by rw [quiet])⟩

/-- The machine runs, and has shown as many frames as it counts, the last of them the one that stands. -/
structure State.Showing (s : State) : Prop where
  phase : s.phase = .running
  count : s.shown.length = s.frame
  last : s.shown.head? = s.out

theorem State.Showing.exec_schedFrame {s t : State} (h : s.Showing) (ht : exec .schedFrame s = .next t) :
    t.Showing ∧ t.frame = s.frame + 1 := by
  obtain ⟨hframe, out, hout, hshown⟩ := exec_schedFrame_shown h.phase ht
  refine ⟨⟨(exec_schedFrame_effect ht).1.trans h.phase, ?_, ?_⟩, hframe⟩
  · rw [hshown, hframe, List.length_cons, h.count]
  · rw [hshown, hout, List.head?_cons]

theorem State.observation_frames (s : State) : s.observation.frames = s.shown.reverse :=
  List.filterMap_reverse

/-! ### The frames of a run -/

theorem runFrames_succ (n : Nat) (s : State) :
    runFrames (n + 1) s = Outcome.andThen (exec .schedFrame s) (runFrames n) := by
  rw [runFrames]
  cases exec .schedFrame s <;> rfl

theorem runFrames_eq_execAll (n : Nat) (s : State) : runFrames n s = execAll (List.replicate n .schedFrame) s := by
  induction n generalizing s with
  | zero => rfl
  | succ n ih =>
    rw [runFrames_succ, List.replicate_succ, execAll_cons_eq]
    exact Outcome.andThen_congr fun t _ => ih t

theorem State.Showing.runFrames {n : Nat} {s t : State} (h : s.Showing) (ht : runFrames n s = .next t) :
    t.Showing ∧ t.frame = s.frame + n := by
  induction n generalizing s with
  | zero => cases ht; exact ⟨h, rfl⟩
  | succ n ih =>
    rw [runFrames_succ] at ht
    obtain ⟨u, hu, hrest⟩ := Outcome.andThen_eq_next.1 ht
    obtain ⟨showing, hframe⟩ := h.exec_schedFrame hu
    obtain ⟨showing', hframe'⟩ := ih showing hrest
    exact ⟨showing', by omega⟩

theorem runFrames_reaches {n : Nat} {s t : State} (hslot : s.slot = none) (hphase : s.phase = .running)
    (h : runFrames n s = .next t) : s.Reaches t := by
  induction n generalizing s with
  | zero => cases h; exact .refl _
  | succ n ih =>
    rw [runFrames_succ] at h
    obtain ⟨u, hu, hrest⟩ := Outcome.andThen_eq_next.1 h
    obtain ⟨phase, slot⟩ := exec_schedFrame_effect hu
    exact (exec_schedFrame_reaches hslot hphase hu).trans (ih (slot.trans hslot) (phase.trans hphase) hrest)

/-- Between two frames the script is as empty as before the first, and the next frame has its slices again. -/
theorem State.Unscripted.again {s t : State} (h : s.Unscripted) (ht : exec .schedFrame s = .next t)
    (hround : t.round = 0) (frame : Unchanged s t emptyFrameParts) : t.Unscripted := by
  have phase : t.phase = s.phase := frame .phase (by decide)
  have input : t.input = s.input := frame .input (by decide)
  have inv := exec_inv h.inv ht
  have slices : 1 ≤ t.cfg.slices := paramOk_of_checked (inv.checked (phase.trans h.phase)) .slices
  exact ⟨inv, phase.trans h.phase, input.trans h.input, .inl (by omega)⟩

theorem State.Unscripted.runFrames {s : State} (h : s.Unscripted) (n : Nat) : ∃ t, runFrames n s = .next t := by
  induction n generalizing s with
  | zero => exact ⟨s, rfl⟩
  | succ n ih =>
    obtain ⟨u, hu, -, hround, -, -, -, frame⟩ := h.exec_schedFrame
    rw [runFrames_succ, hu, Outcome.next_andThen]
    exact ih (h.again hu hround frame)

/-! ### The run -/

/-- The machine after RESET and a check that has passed: what the frames of a run start from. -/
def State.started (cfg : Config) (script : List ScriptLine) : State := { State.loaded cfg script with phase := .running }

theorem exec_reset_loaded (cfg : Config) (script : List ScriptLine) :
    exec .reset (State.loaded cfg script) = .next (State.loaded cfg script) := rfl

theorem exec_configCheck_loaded (cfg : Config) (script : List ScriptLine) :
    exec .configCheck (State.loaded cfg script) = .next (State.loaded cfg script).checked :=
  exec_configCheck_of_setup rfl

theorem run_eq_runChecked (cfg : Config) (script : List ScriptLine) (frames : Nat) :
    run cfg script frames = runChecked frames (State.loaded cfg script).checked := by
  simp only [run, exec_reset_loaded, exec_configCheck_loaded]

theorem State.checked_loaded {cfg : Config} (h : checkConfig cfg = none) (script : List ScriptLine) :
    (State.loaded cfg script).checked = State.started cfg script := State.checked_of_passed h

theorem run_of_passed {cfg : Config} (h : checkConfig cfg = none) (script : List ScriptLine) (frames : Nat) :
    run cfg script frames = runFrames frames (State.started cfg script) := by
  rw [run_eq_runChecked, State.checked_loaded h]
  rfl

theorem run_of_failed {cfg : Config} {e : ConfigError} (h : checkConfig cfg = some e) (script : List ScriptLine)
    (frames : Nat) : run cfg script frames = .next (State.loaded cfg script).checked := by
  have failed := State.checked_of_failed (s := State.loaded cfg script) h
  rw [run_eq_runChecked, failed]
  rfl

theorem State.started_showing (cfg : Config) (script : List ScriptLine) : (State.started cfg script).Showing :=
  ⟨rfl, rfl, rfl⟩

theorem State.started_inv {cfg : Config} (h : checkConfig cfg = none) (script : List ScriptLine) :
    (State.started cfg script).Inv := by
  rw [← State.checked_loaded h]
  exact State.checked_inv (State.resetBlock_inv (State.loaded cfg script)) rfl

theorem State.started_unscripted {cfg : Config} (h : checkConfig cfg = none) : (State.started cfg []).Unscripted :=
  ⟨State.started_inv h [], rfl, rfl, .inl (paramOk_of_checked h .slices)⟩

/-- CONFIG.CHECK is the block's first step; the frames are steps too. -/
theorem run_reaches {cfg : Config} {script : List ScriptLine} {frames : Nat} {t : State}
    (h : run cfg script frames = .next t) : (State.loaded cfg script).Reaches t := by
  have first : step (State.loaded cfg script) = .next (State.loaded cfg script).checked :=
    (step_of_setup rfl rfl).trans (exec_configCheck_loaded cfg script)
  refine .cons first ?_
  cases hcheck : checkConfig cfg with
  | none =>
    rw [run_of_passed hcheck] at h
    rw [State.checked_loaded hcheck]
    exact runFrames_reaches rfl rfl h
  | some e =>
    rw [run_of_failed hcheck] at h
    cases h
    exact .refl _

/-- Settles O60. -/
theorem runOfFrames : Obligations.RunOfFrames := by
  refine fun cfg script frames => ⟨fun e hfail => ?failed, fun pass => ?performed, fun t pass ht => ?shown,
    fun pass => ?ends, fun t ht => run_reaches ht⟩
  case failed =>
    refine ⟨_, run_of_failed hfail script frames, ?_⟩
    rw [State.checked_of_failed (s := State.loaded cfg script) hfail]
    exact ⟨rfl, rfl, rfl⟩
  case performed =>
    have checks := (exec_configCheck_loaded cfg script).trans (by rw [State.checked_loaded pass])
    rw [run_of_passed pass, runFrames_eq_execAll, List.cons_append, List.cons_append, List.nil_append,
      execAll_cons (exec_reset_loaded cfg script), execAll_cons checks]
  case shown =>
    rw [run_of_passed pass] at ht
    obtain ⟨showing, hframe⟩ := (State.started_showing cfg script).runFrames ht
    have count : t.frame = frames := hframe.trans (Nat.zero_add frames)
    rw [State.observation_frames, List.length_reverse, List.getLast?_reverse]
    exact ⟨showing.phase, count, showing.count.trans count, showing.last⟩
  case ends =>
    rw [run_of_passed pass]
    exact (State.started_unscripted pass).runFrames frames

end Sys2Proof.Machine
end

section
/-! PROOFS. RESET (R330): what every accessor reads in the state that RESET answers. A register table lists nothing
there, so each object of it reads as its reset value. -/

namespace Sys2Proof.Machine

theorem exec_reset (s : State) : exec .reset s = .next s.resetBlock := rfl

/-! ### Buffers and the frame buffer -/

theorem State.memRead_resetBlock (s : State) {b off : Nat} {buf : BufferCfg} (hbuf : s.cfg.buffers[b]? = some buf)
    (hoff : off < buf.size) : s.resetBlock.memRead b off = buf.imageByte off := by
  have hbyte : s.resetBlock.cfg.hasByte b off = true := Config.hasByte_iff.2 ⟨buf.kind, buf, hbuf, rfl, hoff⟩
  have hcfg : s.resetBlock.cfg.buffers[b]? = some buf := hbuf
  rw [State.memRead_empty _ rfl hbyte, Config.unwritten, hcfg]

theorem pixelAt_nil (x y : Nat) : pixelAt [] x y = Config.freePixel x y := rfl

/-! ### The register tables -/

@[simp] theorem State.bankIdx_resetBlock (s : State) (k : Nat) : s.resetBlock.bankIdx k = 0 := Sparse.get_nil _ k

@[simp] theorem State.irqOf_resetBlock (s : State) (c : Nat) : s.resetBlock.irqOf c = CpuIrq.reset := Sparse.get_nil _ c

@[simp] theorem State.irqEn_resetBlock (s : State) (c line : Nat) : s.resetBlock.irqEn c line = false := by
  rw [State.irqEn, irqOf_resetBlock]; exact Sparse.get_nil _ line

@[simp] theorem State.asserted_resetBlock (s : State) (c : Nat) (ty : IntType) :
    s.resetBlock.asserted c ty = .none := by
  rw [State.asserted, irqOf_resetBlock]; exact Sparse.get_nil _ ty.code

@[simp] theorem State.nmiEn_resetBlock (s : State) (c : Nat) : s.resetBlock.nmiEn c = false := by
  rw [State.nmiEn, irqOf_resetBlock]; rfl

@[simp] theorem State.nmiPending_resetBlock (s : State) (c : Nat) : s.resetBlock.nmiPending c = false := by
  rw [State.nmiPending, irqOf_resetBlock]; rfl

@[simp] theorem State.hsOf_resetBlock (s : State) (h : Nat) : s.resetBlock.hsOf h = HsRegs.reset := Sparse.get_nil _ h

@[simp] theorem State.linkOf_resetBlock (s : State) (m : Nat) : s.resetBlock.linkOf m = LinkRegs.reset :=
  Sparse.get_nil _ m

@[simp] theorem State.vregOf_resetBlock (s : State) (l : Nat) : s.resetBlock.vregOf l = VregRegs.reset :=
  Sparse.get_nil _ l

@[simp] theorem State.dirtyOf_resetBlock (s : State) (l : Nat) : s.resetBlock.dirtyOf l = true := Sparse.get_nil _ l

/-! ### The statement -/

/-- Settles O53: one accessor after another; what stays is what `resetParts` leaves out. -/
theorem reset : Obligations.Reset := by
  intro s
  have apart : ∀ p ∈ [Part.cfg, .draws, .input, .slot, .trace], p ∉ resetParts := by decide
  have stays := fun p hp => State.unchanged_resetBlock (s := s) p (apart p hp)
  exact ⟨s.resetBlock, exec_reset s, fun _ _ _ hbuf hoff => s.memRead_resetBlock hbuf hoff, s.bankIdx_resetBlock,
    s.irqEn_resetBlock, s.asserted_resetBlock, fun c => ⟨s.nmiEn_resetBlock c, s.nmiPending_resetBlock c⟩,
    s.hsOf_resetBlock, s.linkOf_resetBlock, s.vregOf_resetBlock, s.dirtyOf_resetBlock, pixelAt_nil,
    rfl, rfl, rfl, rfl, rfl, rfl, rfl, stays⟩

end Sys2Proof.Machine
end
